-- ==== Sys2Proof/Word.lean ====
section
/-! DEFINITION. The word types of AES3-2009 CORE (`00_scope.md` R2, R6): in every word bit 0 is the least
significant bit. -/
namespace Sys2Proof

/-- One byte of the channel-status record, an opcode, or a preamble octet. -/
abbrev Byte := BitVec 8

/-- The 24-bit two's-complement, MSB-justified audio word (R2 `AUDIO_W`). -/
abbrev AudioWord := BitVec 24

/-- A 32-bit two's-complement input sample (R3 `SAMPLE_W`). -/
abbrev Sample := BitVec 32

/-- A 64-bit subframe or line value; bit 0 is first in time (`42_subframe_assembler.md` R141). -/
abbrev Subframe := BitVec 64

/-- The 96-bit command word (`30_encoding.md` R60, R3 `CMD_W`). -/
abbrev Cmd := BitVec 96

end Sys2Proof
end

