-- ==== Sys2Proof/Config.lean ====
section
/-! DEFINITION. What the spec leaves open to an implementation (`00_scope.md` R3): the two OPEN parameters. The fixed
sizes of R2 are written where they are used. -/
namespace Sys2Proof.Config

/-- EMA_UPDATE (`00_scope.md` R3, `10_state.md` R14): "any total function" from the old average and the signed sample
to the new average. A FREE VALUE: it has no body, so nothing can be proved of what it answers (log 3). -/
opaque emaUpdate : BitVec 32 → Int → BitVec 32

/-- The parameter PREEMPH_SUPPORTED (`00_scope.md` R3): the 3-bit pre-emphasis codes `SE.CFG` accepts. It is held beside
the state so that a statement about every state holds for every subset (log 4). -/
structure Params where
  preemphSupported : List (BitVec 3)
  deriving DecidableEq, Repr

/-- The default of R3: all eight codes. -/
def Params.default : Params := { preemphSupported := [0, 1, 2, 3, 4, 5, 6, 7] }

end Sys2Proof.Config
end

