-- ==== Sys2Proof/Syntax.lean ====
section
/-! DEFINITION. The 34 commands of `30_encoding.md` R63, one constructor per row of `spec/opcode_table.json`, each with
exactly the operands R66 reads from the command word, in the order of the assembler syntax of R68. A bit the row does
not name is ignored (R64) and so has no place here. -/
namespace Sys2Proof

inductive Instr where
  /-- `SE.CFG wl, pe, av, vi` (0x10, R80) -/
  | seCfg (wl : BitVec 5) (pe : BitVec 3) (av vi : Bool)
  /-- `SE.ENC sample, is_valid` (0x11, R85) -/
  | seEnc (sample : Sample) (isValid : Bool)
  /-- `SE.ENC16 sample, is_valid` (0x12, R86) -/
  | seEnc16 (sample : BitVec 16) (isValid : Bool)
  /-- `SE.ENC24P b0, b1, b2, is_valid` (0x13, R87); b0 is the first, least significant byte -/
  | seEnc24p (b0 b1 b2 : Byte) (isValid : Bool)
  /-- `SE.VRANGE sample, wl` (0x14, R88) -/
  | seVrange (sample : Sample) (wl : BitVec 5)
  /-- `SE.EMARST` (0x15, R89) -/
  | seEmarst
  /-- `SE.EMARD` (0x16, R90) -/
  | seEmard
  /-- `CS.CLR` (0x20, R109) -/
  | csClr
  /-- `CS.WRB index, value` (0x21, R110) -/
  | csWrb (index : BitVec 5) (value : Byte)
  /-- `CS.RDB index` (0x22, R111) -/
  | csRdb (index : BitVec 5)
  /-- `CS.CRC` (0x23, R105) -/
  | csCrc
  /-- `CS.VAL` (0x24, R106) -/
  | csVal
  /-- `CS.SET.PRO value` (0x28, R112) -/
  | csSetPro (value : BitVec 64)
  /-- `CS.SET.PCM value` (0x29, R113) -/
  | csSetPcm (value : BitVec 64)
  /-- `CS.SET.EMPH value` (0x2A, R114) -/
  | csSetEmph (value : BitVec 64)
  /-- `CS.SET.LOCK value` (0x2B, R115) -/
  | csSetLock (value : BitVec 64)
  /-- `CS.SET.FS value` (0x2C, R116) -/
  | csSetFs (value : BitVec 64)
  /-- `CS.SET.AUX value` (0x2D, R117) -/
  | csSetAux (value : BitVec 64)
  /-- `CS.SET.WLEN value` (0x2E, R118) -/
  | csSetWlen (value : BitVec 64)
  /-- `CS.SET.ALIGN value` (0x2F, R119) -/
  | csSetAlign (value : BitVec 64)
  /-- `CS.GET.PRO` (0x30, R120) -/
  | csGetPro
  /-- `CS.GET.PCM` (0x31, R121) -/
  | csGetPcm
  /-- `CS.GET.EMPH` (0x32, R122) -/
  | csGetEmph
  /-- `CS.GET.LOCK` (0x33, R123) -/
  | csGetLock
  /-- `CS.GET.FS` (0x34, R124) -/
  | csGetFs
  /-- `CS.GET.AUX` (0x35, R125) -/
  | csGetAux
  /-- `CS.GET.WLEN` (0x36, R126) -/
  | csGetWlen
  /-- `CS.GET.ALIGN` (0x37, R127) -/
  | csGetAlign
  /-- `SA.CFG ap` (0x40, R142) -/
  | saCfg (ap : Bool)
  /-- `SA.BUILD audio_word, validity, user, cs, preamble` (0x41, R144) -/
  | saBuild (audio : AudioWord) (validity user cs : Bool) (preamble : Byte)
  /-- `BMC.ENC bits, n, prev` (0x50, R162) -/
  | bmcEnc (bits : BitVec 32) (n : BitVec 6) (prev : Bool)
  /-- `BMC.DEC coded, n` (0x51, R165) -/
  | bmcDec (coded : BitVec 64) (n : BitVec 6)
  /-- `SF.LINE subframe` (0x52, R168) -/
  | sfLine (subframe : Subframe)
  /-- `FA.STEP sampleA, validA, userA, sampleB, validB, userB` (0x60, R180) -/
  | faStep (sampleA : Sample) (validA userA : Bool) (sampleB : Sample) (validB userB : Bool)
  deriving DecidableEq, Repr

end Sys2Proof
end

