-- ==== Sys2Proof/Machine/State.lean ====
section
/-! DEFINITION. The state of one CORE instance (`10_state.md` R12 to R17, five items), beside it the model's own fields
(the host's port inputs, the response outputs, the parameter PREEMPH_SUPPORTED), and the reset state (R21). -/
namespace Sys2Proof.Machine

/-- The legal configured word lengths: "20, 21, 22, 23, 24. No other value can be stored" (`10_state.md` R13). -/
inductive WordLength where
  | w20 | w21 | w22 | w23 | w24
  deriving DecidableEq, Repr

/-- `SE_CFG`, the sample encoder's active configuration (`10_state.md` R13). -/
structure SeCfg where
  /-- the configured word length -/
  wl : WordLength
  /-- the stored pre-emphasis code; read by nothing -/
  pe : BitVec 3
  /-- the stored `auto_validity`; read by nothing -/
  av : Bool
  /-- 1 makes `se_encode` run the range test -/
  vi : Bool
  deriving DecidableEq, Repr

/-- `SA_CFG`, the subframe assembler's configuration (`10_state.md` R16). -/
structure SaCfg where
  /-- the auto-parity enable -/
  ap : Bool
  deriving DecidableEq, Repr

/-- `CS_REC` as a memory (`20_memory.md` R40): the cells that differ from what an unlisted address reads as, addresses
strictly rising (`Memory.wf` in Machine/Ops.lean). -/
abbrev Memory := List Host.Cell

/-- The statuses of `60_exceptions.md` R200 "and no others"; their codes are `Status.code`. -/
inductive Status where
  | ok | configError | rangeError | integrityError | transportError | operandError | illegalCommand
  deriving DecidableEq, Repr

/-- A response (`30_encoding.md` R62): status, two results, flags. -/
structure Response where
  st : Status
  r0 : BitVec 64
  r1 : BitVec 64
  rf : BitVec 16
  deriving DecidableEq, Repr

/-- What the host drives on the input ports in one step (`30_encoding.md` R70). -/
structure PortIn where
  rst : Bool
  cmdValid : Bool
  cmd : Cmd
  deriving DecidableEq, Repr

structure State where
  /-- `SE_CFG` (R13) -/
  seCfg : SeCfg
  /-- `SE_EMA` (R14) -/
  seEma : BitVec 32
  /-- `CS_REC` (R15) -/
  csRec : Memory
  /-- `SA_CFG` (R16) -/
  saCfg : SaCfg
  /-- `FA_FRAME` (R17): "always in 0..191" -/
  faFrame : Fin 192
  /-- the model's own: the parameter PREEMPH_SUPPORTED (`00_scope.md` R3); no step changes it (log 4) -/
  params : Config.Params
  /-- the model's own: what the host drives at the coming steps, oldest first; after the last, nothing (log 1) -/
  inputs : List PortIn
  /-- the model's own: the outputs of the step just made, `none` for `rsp_valid` = 0 (R70, R18; log 1) -/
  rsp : Option Response
  deriving DecidableEq, Repr

/-- Reasons to stop with a fault: none. "There is no fault state, no halted state and no way for a command sequence to
make CORE stop accepting commands"; "its fault and refusal outcomes are empty" (`60_exceptions.md` R203). Safe: every
step answers a next state (log 8). -/
inductive Fault where
  deriving DecidableEq, Repr

/-- Reasons to refuse an instruction. -/
inductive Refusal where
  /-- raised by a refused arm of `exec` for a command that has no meaning yet; no arm is refused in this model. Safe. -/
  | notModelled (mnemonic : String)
  deriving DecidableEq, Repr

/-- The state after reset (`10_state.md` R21), with nothing presented at the ports and no response (log 2) and
PREEMPH_SUPPORTED at its default (log 4). -/
def State.reset : State where
  seCfg := { wl := .w24, pe := 0, av := true, vi := true }
  seEma := 0
  csRec := []
  saCfg := { ap := true }
  faFrame := 0
  params := Config.Params.default
  inputs := []
  rsp := none

end Sys2Proof.Machine
end

