-- ==== Sys2Proof/Machine/Operands.lean ====
section
/-! DEFINITION. How operands are read (`30_encoding.md` R66) and the bit-sequence helpers of `00_scope.md` section 6:
bit 0 is the least significant bit, and a sequence puts its first element at bit 0 (R6). -/
namespace Sys2Proof.Machine

/-- The number W of a word length. -/
def WordLength.toNat : WordLength → Nat
  | .w20 => 20
  | .w21 => 21
  | .w22 => 22
  | .w23 => 23
  | .w24 => 24

/-- The 5-bit field `SE_CFG.WL` (`10_state.md` R13). -/
def WordLength.code (w : WordLength) : BitVec 5 := BitVec.ofNat 5 w.toNat

/-- A 5-bit word length operand, unsigned; "only 20 to 24 are accepted" (R66). -/
def wordLengthOfCode (wl : BitVec 5) : Option WordLength :=
  if wl = 20 then some .w20
  else if wl = 21 then some .w21
  else if wl = 22 then some .w22
  else if wl = 23 then some .w23
  else if wl = 24 then some .w24
  else none

/-- `signed_N(v)` (`00_scope.md` section 6). -/
def signed {w : Nat} (v : BitVec w) : Int := v.toInt

/-- `zext_64(v)` (`00_scope.md` section 6). -/
def zext64 {w : Nat} (v : BitVec w) : BitVec 64 := v.setWidth 64

/-- One bit as a word. -/
def bitWord (w : Nat) (b : Bool) : BitVec w := (BitVec.ofBool b).setWidth w

/-- The bits of a word, bit 0 first. -/
def bitList {w : Nat} (v : BitVec w) : List Bool := (List.range w).map v.getLsbD

/-- The number whose bit i is element i of the list. -/
def packNat : List Bool → Nat
  | [] => 0
  | b :: bs => b.toNat + 2 * packNat bs

/-- The word whose bit i is element i of the list; bits past the list's end are 0. -/
def packBits (w : Nat) (bs : List Bool) : BitVec w := BitVec.ofNat w (packNat bs)

/-- `popcount(v)` (`00_scope.md` section 6). -/
def popcount {w : Nat} (v : BitVec w) : Nat := (bitList v).count true

end Sys2Proof.Machine
end

