-- ==== Sys2Proof/Machine/Flags.lean ====
section
/-! DEFINITION. The result flags `rf` of a response (`30_encoding.md` R62: "used by `BMC.ENC`, `SF.LINE`, `FA.STEP`").
CORE has no flags register (`10_state.md` R18). -/
namespace Sys2Proof.Machine

/-- The two channels of a frame (`44_frame_block.md` R181). -/
inductive Channel where
  | a | b
  deriving DecidableEq, Repr

/-- `rf[0]` = the last level of a coded sequence (`43_channel_coder.md` R162, R168). -/
def lastLevelFlag (last : Bool) : BitVec 16 := bitWord 16 last

/-- `rf[7:0]` = f, `rf[8]` = (f = 0), `rf[9]` = (f = 191) of a successful `FA.STEP` (`44_frame_block.md` R180). -/
def frameFlags (f : Fin 192) : BitVec 16 :=
  BitVec.ofNat 16 f.val ||| bitWord 16 (f.val == 0) <<< 8 ||| bitWord 16 (f.val == 191) <<< 9

/-- `rf[10]` on an `FA.STEP` error: 0 = channel A, 1 = channel B (`44_frame_block.md` R180). -/
def channelFlag : Channel → BitVec 16
  | .a => 0x0000
  | .b => 0x0400

end Sys2Proof.Machine
end

