-- ==== Sys2Proof/Machine/Ops.lean ====
section
/-! DEFINITION. The operations commands are made of: the record as memory, its fields and bits (`20_memory.md`), the
response and the error (`00_scope.md` section 6, `60_exceptions.md`), and the monitoring average (`10_state.md` R14). -/
namespace Sys2Proof.Machine

/-! ### `CS_REC` as memory -/

/-- What an address that is not listed reads as: the reset contents, 0x00 (`10_state.md` R21; log 6). -/
def Memory.unlisted : Byte := 0x00

/-- `MemRead(addr, 1)` for an address 0 to 23 (`00_scope.md` section 6). No command reads another address (log 6). -/
def Memory.read : Memory → Nat → Byte
  | [], _ => Memory.unlisted
  | (b, w) :: m, a => if a = b then w else Memory.read m a

/-- A cell as the canonical form lists it: nothing where the value is what an unlisted address reads as. -/
def Memory.cell (a : Nat) (v : Byte) : Memory := if v = Memory.unlisted then [] else [(a, v)]

/-- `MemWrite(addr, 1, v)` for an address 0 to 23, keeping the canonical form. -/
def Memory.write : Memory → Nat → Byte → Memory
  | [], a, v => Memory.cell a v
  | (b, w) :: m, a, v =>
    if a < b then Memory.cell a v ++ (b, w) :: m
    else if a = b then Memory.cell a v ++ m
    else (b, w) :: Memory.write m a v

/-- All 192 bits zero (`41_channel_status.md` R109). -/
def Memory.zeroed : Memory := []

/-- The canonical form: addresses strictly rising and below 24, no cell equal to what an unlisted address reads as. -/
abbrev Memory.wf (m : Memory) : Prop :=
  m.Pairwise (fun x y => x.1 < y.1) ∧ ∀ c ∈ m, c.1 < 24 ∧ c.2 ≠ Memory.unlisted

/-- `cs_bit(n) = CS_REC[n div 8][n mod 8]` (`20_memory.md` R41). -/
def csBit (m : Memory) (n : Nat) : Bool := (m.read (n / 8)).getLsbD (n % 8)

/-- Where a named field lies: byte, low bit, width (`41_channel_status.md` R101). -/
structure FieldPos where
  byte : Nat
  lo : Nat
  width : Nat
  deriving DecidableEq, Repr

/-- `cs_get(j, lo, w) = CS_REC[j][lo+w−1:lo]` (`41_channel_status.md` R102). -/
def csGet (m : Memory) (f : FieldPos) : BitVec f.width := (m.read f.byte).extractLsb' f.lo f.width

/-- The byte mask `(2^w − 1) << lo` of a field (`41_channel_status.md` R101, R102). -/
def fieldMask (f : FieldPos) : Byte := BitVec.ofNat 8 (2 ^ f.width - 1) <<< f.lo

/-- `cs_set(j, lo, w, x)`: `CS_REC[j] <- (CS_REC[j] & NOT mask) | (x << lo)` (`41_channel_status.md` R102). -/
def csSet (m : Memory) (f : FieldPos) (x : BitVec 64) : Memory :=
  m.write f.byte ((m.read f.byte &&& ~~~ fieldMask f) ||| (x.setWidth 8 <<< f.lo))

/-! ### Responses and errors -/

/-- The numeric status codes of `60_exceptions.md` R200. -/
def Status.code : Status → BitVec 4
  | .ok => 0
  | .configError => 1
  | .rangeError => 2
  | .integrityError => 3
  | .transportError => 4
  | .operandError => 14
  | .illegalCommand => 15

/-- The state with `rsp(st, r0, r1, rf)` driven on the response ports (`30_encoding.md` R62, R70). -/
def State.withRsp (s : State) (st : Status) (r0 r1 : BitVec 64) (rf : BitVec 16) : State :=
  { s with rsp := some { st := st, r0 := r0, r1 := r1, rf := rf } }

/-- End a command with status OK: `rsp(0, r0, r1, rf)`. -/
def respond (s : State) (r0 r1 : BitVec 64) (rf : BitVec 16) : Host.Outcome State Fault Refusal :=
  .next (s.withRsp .ok r0 r1 rf)

/-- End a command with `rsp(0, 0, 0, 0)`. -/
def respondOk (s : State) : Host.Outcome State Fault Refusal := respond s 0 0 0

/-- `raise <Error>(info)`: "make no change to any state, and end the command with rsp(<code of Error>, 0, 0, info)"
(`00_scope.md` section 6; `60_exceptions.md` R203, R209). The one operation by which an error is taken; there is no
return from it (R210). -/
def raise (s : State) (e : Status) (info : BitVec 16) : Host.Outcome State Fault Refusal :=
  .next (s.withRsp e 0 0 info)

/-! ### The monitoring average -/

/-- `SE_EMA <- EMA_UPDATE(SE_EMA, sample)` (`10_state.md` R14); the new value is a free value (log 3). -/
def State.emaUpdated (s : State) (sample : Int) : State :=
  { s with seEma := Config.emaUpdate s.seEma sample }

end Sys2Proof.Machine
end

