-- ==== Sys2Proof/Machine/SubframeAssembler.lean ====
section
/-! DEFINITION. The Subframe Assembler (`42_subframe_assembler.md`): the assembly function (R143), the preamble constants
and policy (R146, R147), and the two commands. -/
namespace Sys2Proof.Machine

/-- PRE_X (R147). -/
def preambleX : Byte := 0xE2
/-- PRE_Y (R147). -/
def preambleY : Byte := 0xE4
/-- PRE_Z (R147). -/
def preambleZ : Byte := 0xE8

/-- `preamble_for(f, ch)` (R146). -/
def preambleFor (f : Fin 192) : Channel → Byte
  | .a => if f.val = 0 then preambleZ else preambleX
  | .b => preambleY

/-- Even parity over the 27 logical bits: `(popcount(aw) + v + u + c) mod 2` (R143 step 5). -/
def parityBit (aw : AudioWord) (v u c : Bool) : Bool :=
  (popcount aw + v.toNat + u.toNat + c.toNat) % 2 == 1

/-- The logical bits of slots 4 to 31, slot 4 first: the audio word most-significant bit first, then V, U, C, and the
parity slot, which stays clear without auto-parity (R143 steps 3 to 5). -/
def slotBits (aw : AudioWord) (v u c ap : Bool) : List Bool :=
  (bitList aw).reverse ++ [v, u, c, ap && parityBit aw v u c]

/-- A data slot holds its logical bit in both bit-positions (R141). -/
def doubled (bs : List Bool) : List Bool := bs.flatMap fun b => [b, b]

/-- `sf_build(aw, v, u, c, pre, ap)` (R143): the preamble octet, bit 0 first, then the 28 data slots. -/
def sfBuild (aw : AudioWord) (v u c : Bool) (pre : Byte) (ap : Bool) : Subframe :=
  packBits 64 (bitList pre ++ doubled (slotBits aw v u c ap))

/-- `slot(SF, s) = SF[2s+1:2s]` (R141). -/
def slot (sf : Subframe) (n : Nat) : BitVec 2 := sf.extractLsb' (2 * n) 2

/-- `lbit(SF, s) = SF[2s]` (R141). -/
def lbit (sf : Subframe) (n : Nat) : Bool := sf.getLsbD (2 * n)

/-- `SA.CFG ap` (R142). -/
def execSaCfg (ap : Bool) (s : State) : Host.Outcome State Fault Refusal := respondOk { s with saCfg := { ap := ap } }

/-- `SA.BUILD audio_word, validity, user, cs, preamble` (R144). -/
def execSaBuild (audio : AudioWord) (validity user cs : Bool) (preamble : Byte) (s : State) :
    Host.Outcome State Fault Refusal :=
  respond s (sfBuild audio validity user cs preamble s.saCfg.ap) 0 0

end Sys2Proof.Machine
end

