-- ==== Sys2Proof/Machine/ChannelCoder.lean ====
section
/-! DEFINITION. The Channel Coder, biphase-mark (`43_channel_coder.md`): encoding (R161), decoding (R164) and the three
commands. A level is a Bool, high = true; a coded sequence is the list of its intervals, first in time first. -/
namespace Sys2Proof.Machine

/-- The intervals of the cells that code the bits, after level `lvl` (R161): the first interval of a cell always
changes level, the second changes again for a 1. -/
def bmcIntervals (lvl : Bool) : List Bool → List Bool
  | [] => []
  | b :: bs => (!lvl) :: ((!lvl) ^^ b) :: bmcIntervals ((!lvl) ^^ b) bs

/-- The level of the final interval; `lvl` when there is no cell (R161). -/
def bmcLast (lvl : Bool) : List Bool → Bool
  | [] => lvl
  | b :: bs => bmcLast ((!lvl) ^^ b) bs

/-- `bmc_encode(bits, n, prev)` for n in 0..32 (R161): the coded sequence with cell i in `coded[2i+1:2i]`, and the last
level. -/
def bmcEncode (bits : BitVec 32) (n : Nat) (prev : Bool) : BitVec 64 × Bool :=
  (packBits 64 (bmcIntervals prev ((bitList bits).take n)), bmcLast prev ((bitList bits).take n))

/-- `bmc_decode(coded, n)` for n in 0..32 (R164): `bit i = coded[2i] ^ coded[2i+1]`, bits n and above 0. -/
def bmcDecode (coded : BitVec 64) (n : Nat) : BitVec 32 :=
  packBits 32 ((List.range n).map fun i => coded.getLsbD (2 * i) ^^ coded.getLsbD (2 * i + 1))

/-- The 28 logical bits of slots 4 to 31, slot 4 first (R168). -/
def linePayload (sf : Subframe) : BitVec 32 := packBits 32 ((List.range 28).map fun i => lbit sf (i + 4))

/-- The line value `{coded[55:0], SF[7:0]}` and last level of `SF.LINE`: the preamble passed through, the payload coded
after its last interval (R168). -/
def lineCode (sf : Subframe) : BitVec 64 × Bool :=
  let coded := bmcEncode (linePayload sf) 28 (sf.getLsbD 7)
  (coded.1 <<< 8 ||| (sf.extractLsb' 0 8).setWidth 64, coded.2)

/-- `BMC.ENC bits, n, prev` (R162). -/
def execBmcEnc (bits : BitVec 32) (n : BitVec 6) (prev : Bool) (s : State) : Host.Outcome State Fault Refusal :=
  if n.toNat > 32 then raise s .operandError 0
  else respond s (bmcEncode bits n.toNat prev).1 0 (lastLevelFlag (bmcEncode bits n.toNat prev).2)

/-- `BMC.DEC coded, n` (R165). -/
def execBmcDec (coded : BitVec 64) (n : BitVec 6) (s : State) : Host.Outcome State Fault Refusal :=
  if n.toNat > 32 then raise s .operandError 0
  else respond s (zext64 (bmcDecode coded n.toNat)) 0 0

/-- `SF.LINE subframe` (R168). -/
def execSfLine (subframe : Subframe) (s : State) : Host.Outcome State Fault Refusal :=
  respond s (lineCode subframe).1 0 (lastLevelFlag (lineCode subframe).2)

end Sys2Proof.Machine
end

