-- ==== Sys2Proof/Machine/ChannelStatus.lean ====
section
/-! DEFINITION. The Channel-Status Accumulator and CRC-8 (`41_channel_status.md`): the field positions (R101), the CRC
(R104) and the 21 commands. -/
namespace Sys2Proof.Machine

/-! ### The eight fields (R101) -/

def fieldPro : FieldPos := { byte := 0, lo := 0, width := 1 }
def fieldPcm : FieldPos := { byte := 0, lo := 1, width := 1 }
def fieldEmph : FieldPos := { byte := 0, lo := 2, width := 3 }
def fieldLock : FieldPos := { byte := 0, lo := 5, width := 1 }
def fieldFs : FieldPos := { byte := 0, lo := 6, width := 2 }
def fieldAux : FieldPos := { byte := 2, lo := 0, width := 3 }
def fieldWlen : FieldPos := { byte := 2, lo := 3, width := 3 }
def fieldAlign : FieldPos := { byte := 2, lo := 6, width := 2 }

/-! ### The CRC (R104) -/

/-- One input bit: shift the register left, and exclusive-or 0x1D when the bit differs from the old top bit. -/
def crcBit (c : Byte) (b : Bool) : Byte :=
  if b != c.msb then (c <<< 1) ^^^ 0x1D else c <<< 1

/-- The record's bytes 0 to 22 as input bits: byte 0 first, bit 0 of each byte first. -/
def crcInput (m : Memory) : List Bool := (List.range 23).flatMap fun j => bitList (m.read j)

/-- `crc8(rec)`: initial register 0xFF, no final exclusive-or, byte 23 never read. -/
def crc8 (m : Memory) : Byte := (crcInput m).foldl crcBit 0xFF

/-! ### Whole-record and byte commands -/

/-- `CS.CLR` (R109). -/
def execCsClr (s : State) : Host.Outcome State Fault Refusal := respondOk { s with csRec := Memory.zeroed }

/-- `CS.WRB index, value` (R110). -/
def execCsWrb (index : BitVec 5) (value : Byte) (s : State) : Host.Outcome State Fault Refusal :=
  if index.toNat > 23 then raise s .operandError 0
  else respondOk { s with csRec := s.csRec.write index.toNat value }

/-- `CS.RDB index` (R111). -/
def execCsRdb (index : BitVec 5) (s : State) : Host.Outcome State Fault Refusal :=
  if index.toNat > 23 then raise s .operandError 0
  else respond s (zext64 (s.csRec.read index.toNat)) 0 0

/-- `CS.CRC` (R105). -/
def execCsCrc (s : State) : Host.Outcome State Fault Refusal := respond s (zext64 (crc8 s.csRec)) 0 0

/-- `CS.VAL` (R106): a mismatch is `r0[0]` = 0 with status OK. -/
def execCsVal (s : State) : Host.Outcome State Fault Refusal :=
  respond s (bitWord 64 (crc8 s.csRec == s.csRec.read 23)) 0 0

/-! ### The eight setters (R112 to R119) -/

/-- What every setter does: reject an operand of 2^w or more (R103), else write the field (R102). -/
def setField (f : FieldPos) (x : BitVec 64) (s : State) : Host.Outcome State Fault Refusal :=
  if x.toNat ≥ 2 ^ f.width then raise s .configError 0
  else respondOk { s with csRec := csSet s.csRec f x }

/-- `CS.SET.PRO x` (R112). -/
def execCsSetPro (x : BitVec 64) (s : State) : Host.Outcome State Fault Refusal := setField fieldPro x s
/-- `CS.SET.PCM x` (R113). -/
def execCsSetPcm (x : BitVec 64) (s : State) : Host.Outcome State Fault Refusal := setField fieldPcm x s
/-- `CS.SET.EMPH x` (R114). -/
def execCsSetEmph (x : BitVec 64) (s : State) : Host.Outcome State Fault Refusal := setField fieldEmph x s
/-- `CS.SET.LOCK x` (R115). -/
def execCsSetLock (x : BitVec 64) (s : State) : Host.Outcome State Fault Refusal := setField fieldLock x s
/-- `CS.SET.FS x` (R116). -/
def execCsSetFs (x : BitVec 64) (s : State) : Host.Outcome State Fault Refusal := setField fieldFs x s
/-- `CS.SET.AUX x` (R117). -/
def execCsSetAux (x : BitVec 64) (s : State) : Host.Outcome State Fault Refusal := setField fieldAux x s
/-- `CS.SET.WLEN x` (R118). -/
def execCsSetWlen (x : BitVec 64) (s : State) : Host.Outcome State Fault Refusal := setField fieldWlen x s
/-- `CS.SET.ALIGN x` (R119). -/
def execCsSetAlign (x : BitVec 64) (s : State) : Host.Outcome State Fault Refusal := setField fieldAlign x s

/-! ### The eight getters (R120 to R127) -/

/-- What every getter does: return the field zero-extended (R102). -/
def getField (f : FieldPos) (s : State) : Host.Outcome State Fault Refusal := respond s (zext64 (csGet s.csRec f)) 0 0

/-- `CS.GET.PRO` (R120). -/
def execCsGetPro (s : State) : Host.Outcome State Fault Refusal := getField fieldPro s
/-- `CS.GET.PCM` (R121). -/
def execCsGetPcm (s : State) : Host.Outcome State Fault Refusal := getField fieldPcm s
/-- `CS.GET.EMPH` (R122). -/
def execCsGetEmph (s : State) : Host.Outcome State Fault Refusal := getField fieldEmph s
/-- `CS.GET.LOCK` (R123). -/
def execCsGetLock (s : State) : Host.Outcome State Fault Refusal := getField fieldLock s
/-- `CS.GET.FS` (R124). -/
def execCsGetFs (s : State) : Host.Outcome State Fault Refusal := getField fieldFs s
/-- `CS.GET.AUX` (R125). -/
def execCsGetAux (s : State) : Host.Outcome State Fault Refusal := getField fieldAux s
/-- `CS.GET.WLEN` (R126). -/
def execCsGetWlen (s : State) : Host.Outcome State Fault Refusal := getField fieldWlen s
/-- `CS.GET.ALIGN` (R127). -/
def execCsGetAlign (s : State) : Host.Outcome State Fault Refusal := getField fieldAlign s

end Sys2Proof.Machine
end

