-- ==== Sys2Proof/Machine/SampleEncoder.lean ====
section
/-! DEFINITION. The Sample Encoder (`40_sample_encoder.md`): its functions (R81 to R83, R92) and its seven commands. -/
namespace Sys2Proof.Machine

/-- `se_in_range(s, W)`: `−2^(W−1) <= signed_32(s) <= 2^(W−1) − 1` (R81). -/
def seInRange (s : Sample) (w : WordLength) : Bool :=
  decide (-(2 ^ (w.toNat - 1) : Int) ≤ signed s ∧ signed s ≤ 2 ^ (w.toNat - 1) - 1)

/-- `k = 24 − W`, the number of vacated low bits (R82). -/
def vacated (w : WordLength) : Nat := 24 - w.toNat

/-- `aw` of `se_justify`: mask to 24 bits, shift left by k, keep 24 bits (R82). -/
def seJustifyAudio (s : Sample) (w : WordLength) : AudioWord := s.extractLsb' 0 24 <<< vacated w

/-- `aux` of `se_justify`: `zext_4(s24[k−1:0])`, the low k bits of the sample before the shift (R82). -/
def seJustifyAux (s : Sample) (w : WordLength) : BitVec 4 :=
  BitVec.ofNat 4 ((s.extractLsb' 0 24).toNat % 2 ^ vacated w)

/-- What an encode returns: the audio word, the validity bit (0 reliable, 1 unreliable), the auxiliary bits (R83). -/
structure Encoded where
  aw : AudioWord
  v : Bool
  aux : BitVec 4
  deriving DecidableEq, Repr

/-- `se_encode(s, is_valid)` under a configuration; `none` is RangeError (R83). `PE` and `AV` are not read (R84). -/
def seEncode (cfg : SeCfg) (s : Sample) (isValid : Bool) : Option Encoded :=
  if cfg.vi && !seInRange s cfg.wl then none
  else some { aw := seJustifyAudio s cfg.wl, v := !isValid, aux := seJustifyAux s cfg.wl }

/-- `se_unjustify(aw, W) = sext_32(aw[23:k])`, inverse justification (R92); not a command. -/
def seUnjustify (aw : AudioWord) (w : WordLength) : Sample := (aw.sshiftRight (vacated w)).signExtend 32

/-- The result word of an encode: `r0[23:0]` = aw, `r0[24]` = v (R85). -/
def encodedWord (v : Bool) (aw : AudioWord) : BitVec 64 := zext64 aw ||| bitWord 64 v <<< 24

/-- `SE.CFG wl, pe, av, vi` (R80): replaces the whole configuration or rejects the request. -/
def execSeCfg (wl : BitVec 5) (pe : BitVec 3) (av vi : Bool) (s : State) : Host.Outcome State Fault Refusal :=
  match wordLengthOfCode wl with
  | none => raise s .configError 0
  | some w =>
    if s.params.preemphSupported.contains pe then
      respondOk { s with seCfg := { wl := w, pe := pe, av := av, vi := vi } }
    else raise s .configError 0

/-- `SE.ENC sample, is_valid` (R85). -/
def execSeEnc (sample : Sample) (isValid : Bool) (s : State) : Host.Outcome State Fault Refusal :=
  match seEncode s.seCfg sample isValid with
  | none => raise s .rangeError 0
  | some e => respond (s.emaUpdated (signed sample)) (encodedWord e.v e.aw) (zext64 e.aux) 0

/-- `SE.ENC16 sample, is_valid` (R86): `aw = {A[15:0], 8'b0}`, aux 0, the configuration ignored. -/
def execSeEnc16 (sample : BitVec 16) (isValid : Bool) (s : State) : Host.Outcome State Fault Refusal :=
  respond (s.emaUpdated (signed sample)) (encodedWord (!isValid) (sample.setWidth 24 <<< 8)) 0 0

/-- `{b2, b1, b0}`: the first byte of the little-endian buffer is the least significant (`20_memory.md` R45). -/
def packedBytes (b0 b1 b2 : Byte) : AudioWord :=
  b0.setWidth 24 ||| b1.setWidth 24 <<< 8 ||| b2.setWidth 24 <<< 16

/-- `SE.ENC24P b0, b1, b2, is_valid` (R87): `aw = {b2, b1, b0}`, aux 0, the configuration ignored. -/
def execSeEnc24p (b0 b1 b2 : Byte) (isValid : Bool) (s : State) : Host.Outcome State Fault Refusal :=
  respond (s.emaUpdated (signed (packedBytes b0 b1 b2))) (encodedWord (!isValid) (packedBytes b0 b1 b2)) 0 0

/-- `SE.VRANGE sample, wl` (R88): the word length is tested first, then the sample; no state is touched. -/
def execSeVrange (sample : Sample) (wl : BitVec 5) (s : State) : Host.Outcome State Fault Refusal :=
  match wordLengthOfCode wl with
  | none => raise s .configError 0
  | some w => if seInRange sample w then respondOk s else raise s .rangeError 0

/-- `SE.EMARST` (R89). -/
def execSeEmarst (s : State) : Host.Outcome State Fault Refusal := respondOk { s with seEma := 0 }

/-- `SE.EMARD` (R90). -/
def execSeEmard (s : State) : Host.Outcome State Fault Refusal := respond s (zext64 s.seEma) 0 0

end Sys2Proof.Machine
end

