-- ==== Sys2Proof/Machine/FrameBlock.lean ====
section
/-! DEFINITION. The Frame/Block Aggregator (`44_frame_block.md`): the counter's advance (R184) and `FA.STEP` (R180). -/
namespace Sys2Proof.Machine

/-- `(f + 1) mod 192` (R184). -/
def nextFrame (f : Fin 192) : Fin 192 := ⟨(f.val + 1) % 192, Nat.mod_lt _ (Nat.zero_lt_succ _)⟩

/-- One subframe of frame `FA_FRAME`: encoded sample, user bit, the record bit of the frame (both channels carry the
same one, R186), the preamble the policy gives the channel (R180). -/
def frameSubframe (s : State) (e : Encoded) (user : Bool) (ch : Channel) : Subframe :=
  sfBuild e.aw e.v user (csBit s.csRec s.faFrame.val) (preambleFor s.faFrame ch) s.saCfg.ap

/-- `FA.STEP sampleA, validA, userA, sampleB, validB, userB` (R180): channel A is tested first; on an error nothing
changes; the auxiliary bits are dropped. -/
def execFaStep (sampleA : Sample) (validA userA : Bool) (sampleB : Sample) (validB userB : Bool) (s : State) :
    Host.Outcome State Fault Refusal :=
  match seEncode s.seCfg sampleA validA with
  | none => raise s .rangeError (channelFlag .a)
  | some eA =>
    match seEncode s.seCfg sampleB validB with
    | none => raise s .rangeError (channelFlag .b)
    | some eB =>
      respond { (s.emaUpdated (signed sampleA)).emaUpdated (signed sampleB) with faFrame := nextFrame s.faFrame }
        (frameSubframe s eA userA .a) (frameSubframe s eB userB .b) (frameFlags s.faFrame)

end Sys2Proof.Machine
end

