-- ==== Sys2Proof/Machine/Dispatch.lean ====
section
/-! DEFINITION. One arm per command of `30_encoding.md` R63, each one call of its meaning. -/
namespace Sys2Proof.Machine

def exec (i : Instr) (s : State) : Host.Outcome State Fault Refusal :=
  match i with
  | .seCfg wl pe av vi => Sys2Proof.Machine.execSeCfg wl pe av vi s
  | .seEnc sample isValid => Sys2Proof.Machine.execSeEnc sample isValid s
  | .seEnc16 sample isValid => Sys2Proof.Machine.execSeEnc16 sample isValid s
  | .seEnc24p b0 b1 b2 isValid => Sys2Proof.Machine.execSeEnc24p b0 b1 b2 isValid s
  | .seVrange sample wl => Sys2Proof.Machine.execSeVrange sample wl s
  | .seEmarst => Sys2Proof.Machine.execSeEmarst s
  | .seEmard => Sys2Proof.Machine.execSeEmard s
  | .csClr => Sys2Proof.Machine.execCsClr s
  | .csWrb index value => Sys2Proof.Machine.execCsWrb index value s
  | .csRdb index => Sys2Proof.Machine.execCsRdb index s
  | .csCrc => Sys2Proof.Machine.execCsCrc s
  | .csVal => Sys2Proof.Machine.execCsVal s
  | .csSetPro value => Sys2Proof.Machine.execCsSetPro value s
  | .csSetPcm value => Sys2Proof.Machine.execCsSetPcm value s
  | .csSetEmph value => Sys2Proof.Machine.execCsSetEmph value s
  | .csSetLock value => Sys2Proof.Machine.execCsSetLock value s
  | .csSetFs value => Sys2Proof.Machine.execCsSetFs value s
  | .csSetAux value => Sys2Proof.Machine.execCsSetAux value s
  | .csSetWlen value => Sys2Proof.Machine.execCsSetWlen value s
  | .csSetAlign value => Sys2Proof.Machine.execCsSetAlign value s
  | .csGetPro => Sys2Proof.Machine.execCsGetPro s
  | .csGetPcm => Sys2Proof.Machine.execCsGetPcm s
  | .csGetEmph => Sys2Proof.Machine.execCsGetEmph s
  | .csGetLock => Sys2Proof.Machine.execCsGetLock s
  | .csGetFs => Sys2Proof.Machine.execCsGetFs s
  | .csGetAux => Sys2Proof.Machine.execCsGetAux s
  | .csGetWlen => Sys2Proof.Machine.execCsGetWlen s
  | .csGetAlign => Sys2Proof.Machine.execCsGetAlign s
  | .saCfg ap => Sys2Proof.Machine.execSaCfg ap s
  | .saBuild audio validity user cs preamble => Sys2Proof.Machine.execSaBuild audio validity user cs preamble s
  | .bmcEnc bits n prev => Sys2Proof.Machine.execBmcEnc bits n prev s
  | .bmcDec coded n => Sys2Proof.Machine.execBmcDec coded n s
  | .sfLine subframe => Sys2Proof.Machine.execSfLine subframe s
  | .faStep sampleA validA userA sampleB validB userB => Sys2Proof.Machine.execFaStep sampleA validA userA sampleB validB userB s

end Sys2Proof.Machine
end

