-- ==== Sys2Proof/WellFormed.lean ====
section
/-! DEFINITION. Well-formed commands: every operand lies in the domain `30_encoding.md` R66 says is accepted ("only 20
to 24 are accepted", "only 0 to 23", "must be less than 2^w", "only 0 to 32"). The widths of the other operands are in
their types, and every value of those is accepted. A command that is not well-formed still decodes and still executes:
it answers the error its rule names (log 7). -/
namespace Sys2Proof

/-- A word length operand R66 accepts: 20 to 24. -/
def acceptedWordLength (wl : BitVec 5) : Bool := decide (20 ≤ wl.toNat ∧ wl.toNat ≤ 24)

/-- A record index R66 accepts: 0 to 23. -/
def acceptedIndex (index : BitVec 5) : Bool := decide (index.toNat ≤ 23)

/-- A cell count R66 accepts: 0 to 32. -/
def acceptedCount (n : BitVec 6) : Bool := decide (n.toNat ≤ 32)

/-- A setter's value fits a field of width `w` (R66, R103). -/
def fitsField (w : Nat) (x : BitVec 64) : Bool := decide (x.toNat < 2 ^ w)

def Instr.wellFormed : Instr → Bool
  | .seCfg wl _ _ _ => acceptedWordLength wl
  | .seEnc _ _ => true
  | .seEnc16 _ _ => true
  | .seEnc24p _ _ _ _ => true
  | .seVrange _ wl => acceptedWordLength wl
  | .seEmarst => true
  | .seEmard => true
  | .csClr => true
  | .csWrb index _ => acceptedIndex index
  | .csRdb index => acceptedIndex index
  | .csCrc => true
  | .csVal => true
  | .csSetPro x => fitsField 1 x
  | .csSetPcm x => fitsField 1 x
  | .csSetEmph x => fitsField 3 x
  | .csSetLock x => fitsField 1 x
  | .csSetFs x => fitsField 2 x
  | .csSetAux x => fitsField 3 x
  | .csSetWlen x => fitsField 3 x
  | .csSetAlign x => fitsField 2 x
  | .csGetPro => true
  | .csGetPcm => true
  | .csGetEmph => true
  | .csGetLock => true
  | .csGetFs => true
  | .csGetAux => true
  | .csGetWlen => true
  | .csGetAlign => true
  | .saCfg _ => true
  | .saBuild _ _ _ _ _ => true
  | .bmcEnc _ n _ => acceptedCount n
  | .bmcDec _ n => acceptedCount n
  | .sfLine _ => true
  | .faStep _ _ _ _ _ _ => true

end Sys2Proof
end

