-- ==== Sys2Proof/Decode.lean ====
section
/-! DEFINITION. Decoding and encoding of command words (`30_encoding.md` R60, R63 to R67). A decoder looks at
`cmd[95:88]` and nothing else to choose the command; the operands are cut out of A and B where R63 puts them; every
other bit is ignored (R64); an opcode outside R63 is refused here, which the step answers with IllegalCommand (R65). -/
namespace Sys2Proof

/-- `op` is `cmd[95:88]` (R60). -/
def cmdOp (cmd : Cmd) : Byte := cmd.extractLsb' 88 8

/-- `B` is `cmd[87:64]` (R60). -/
def cmdB (cmd : Cmd) : BitVec 24 := cmd.extractLsb' 64 24

/-- `A` is `cmd[63:0]` (R60). -/
def cmdA (cmd : Cmd) : BitVec 64 := cmd.extractLsb' 0 64

/-- `cmd = {op, B, A}` (R60). -/
def mkCmd (op : Byte) (b : BitVec 24) (a : BitVec 64) : Cmd := (op ++ b) ++ a

/-- The names of the 34 commands, without operands. -/
inductive Opcode where
  | seCfg | seEnc | seEnc16 | seEnc24p | seVrange | seEmarst | seEmard
  | csClr | csWrb | csRdb | csCrc | csVal
  | csSetPro | csSetPcm | csSetEmph | csSetLock | csSetFs | csSetAux | csSetWlen | csSetAlign
  | csGetPro | csGetPcm | csGetEmph | csGetLock | csGetFs | csGetAux | csGetWlen | csGetAlign
  | saCfg | saBuild | bmcEnc | bmcDec | sfLine | faStep
  deriving DecidableEq, Repr

/-- The opcode map of R63, the Sample Encoder's rows. -/
def opcodeTableSe : List (Byte × Opcode) :=
  [(0x10, .seCfg), (0x11, .seEnc), (0x12, .seEnc16), (0x13, .seEnc24p), (0x14, .seVrange), (0x15, .seEmarst),
   (0x16, .seEmard)]

/-- The opcode map of R63, the record's whole-byte rows. -/
def opcodeTableCs : List (Byte × Opcode) :=
  [(0x20, .csClr), (0x21, .csWrb), (0x22, .csRdb), (0x23, .csCrc), (0x24, .csVal)]

/-- The opcode map of R63, the eight setters. -/
def opcodeTableCsSet : List (Byte × Opcode) :=
  [(0x28, .csSetPro), (0x29, .csSetPcm), (0x2A, .csSetEmph), (0x2B, .csSetLock), (0x2C, .csSetFs), (0x2D, .csSetAux),
   (0x2E, .csSetWlen), (0x2F, .csSetAlign)]

/-- The opcode map of R63, the eight getters. -/
def opcodeTableCsGet : List (Byte × Opcode) :=
  [(0x30, .csGetPro), (0x31, .csGetPcm), (0x32, .csGetEmph), (0x33, .csGetLock), (0x34, .csGetFs), (0x35, .csGetAux),
   (0x36, .csGetWlen), (0x37, .csGetAlign)]

/-- The opcode map of R63, the Subframe Assembler, Channel Coder and Frame/Block Aggregator. -/
def opcodeTableRest : List (Byte × Opcode) :=
  [(0x40, .saCfg), (0x41, .saBuild), (0x50, .bmcEnc), (0x51, .bmcDec), (0x52, .sfLine), (0x60, .faStep)]

/-- The opcode map of R63, whole. -/
def opcodeTable : List (Byte × Opcode) :=
  opcodeTableSe ++ opcodeTableCs ++ opcodeTableCsSet ++ opcodeTableCsGet ++ opcodeTableRest

/-- The row an opcode byte selects; `none` for the 222 undefined values (R65). -/
def opcodeOfByte (op : Byte) : Option Opcode :=
  (opcodeTable.find? fun row => row.1 == op).map Prod.snd

/-- The operands of each command, cut out of B and A as R63 and R66 say. -/
def operandsOf (b : BitVec 24) (a : BitVec 64) : Opcode → Instr
  | .seCfg => .seCfg (b.extractLsb' 0 5) (b.extractLsb' 8 3) (b.getLsbD 11) (b.getLsbD 12)
  | .seEnc => .seEnc (a.extractLsb' 0 32) (b.getLsbD 0)
  | .seEnc16 => .seEnc16 (a.extractLsb' 0 16) (b.getLsbD 0)
  | .seEnc24p => .seEnc24p (a.extractLsb' 0 8) (a.extractLsb' 8 8) (a.extractLsb' 16 8) (b.getLsbD 0)
  | .seVrange => .seVrange (a.extractLsb' 0 32) (b.extractLsb' 0 5)
  | .seEmarst => .seEmarst
  | .seEmard => .seEmard
  | .csClr => .csClr
  | .csWrb => .csWrb (b.extractLsb' 0 5) (a.extractLsb' 0 8)
  | .csRdb => .csRdb (b.extractLsb' 0 5)
  | .csCrc => .csCrc
  | .csVal => .csVal
  | .csSetPro => .csSetPro a
  | .csSetPcm => .csSetPcm a
  | .csSetEmph => .csSetEmph a
  | .csSetLock => .csSetLock a
  | .csSetFs => .csSetFs a
  | .csSetAux => .csSetAux a
  | .csSetWlen => .csSetWlen a
  | .csSetAlign => .csSetAlign a
  | .csGetPro => .csGetPro
  | .csGetPcm => .csGetPcm
  | .csGetEmph => .csGetEmph
  | .csGetLock => .csGetLock
  | .csGetFs => .csGetFs
  | .csGetAux => .csGetAux
  | .csGetWlen => .csGetWlen
  | .csGetAlign => .csGetAlign
  | .saCfg => .saCfg (b.getLsbD 0)
  | .saBuild => .saBuild (a.extractLsb' 0 24) (b.getLsbD 0) (b.getLsbD 1) (b.getLsbD 2) (b.extractLsb' 8 8)
  | .bmcEnc => .bmcEnc (a.extractLsb' 0 32) (b.extractLsb' 0 6) (b.getLsbD 8)
  | .bmcDec => .bmcDec a (b.extractLsb' 0 6)
  | .sfLine => .sfLine a
  | .faStep => .faStep (a.extractLsb' 0 32) (b.getLsbD 0) (b.getLsbD 1) (a.extractLsb' 32 32) (b.getLsbD 2) (b.getLsbD 3)

/-- The command a word stands for, or `none` when its opcode is undefined. Total on every 96-bit word. -/
def decode (cmd : Cmd) : Option Instr :=
  (opcodeOfByte (cmdOp cmd)).map (operandsOf (cmdB cmd) (cmdA cmd))

/-! ### The encoder: the other direction, unnamed bits written as 0 (R68). -/

/-- The command's name. -/
def Instr.opcode : Instr → Opcode
  | .seCfg _ _ _ _ => .seCfg
  | .seEnc _ _ => .seEnc
  | .seEnc16 _ _ => .seEnc16
  | .seEnc24p _ _ _ _ => .seEnc24p
  | .seVrange _ _ => .seVrange
  | .seEmarst => .seEmarst
  | .seEmard => .seEmard
  | .csClr => .csClr
  | .csWrb _ _ => .csWrb
  | .csRdb _ => .csRdb
  | .csCrc => .csCrc
  | .csVal => .csVal
  | .csSetPro _ => .csSetPro
  | .csSetPcm _ => .csSetPcm
  | .csSetEmph _ => .csSetEmph
  | .csSetLock _ => .csSetLock
  | .csSetFs _ => .csSetFs
  | .csSetAux _ => .csSetAux
  | .csSetWlen _ => .csSetWlen
  | .csSetAlign _ => .csSetAlign
  | .csGetPro => .csGetPro
  | .csGetPcm => .csGetPcm
  | .csGetEmph => .csGetEmph
  | .csGetLock => .csGetLock
  | .csGetFs => .csGetFs
  | .csGetAux => .csGetAux
  | .csGetWlen => .csGetWlen
  | .csGetAlign => .csGetAlign
  | .saCfg _ => .saCfg
  | .saBuild _ _ _ _ _ => .saBuild
  | .bmcEnc _ _ _ => .bmcEnc
  | .bmcDec _ _ => .bmcDec
  | .sfLine _ => .sfLine
  | .faStep _ _ _ _ _ _ => .faStep

/-- The opcode byte of R63 (the row of the table with that name). -/
def opcodeByte (o : Opcode) : Byte :=
  ((opcodeTable.find? fun row => row.2 == o).map Prod.fst).getD 0

/-- One flag bit at position `k` of B. -/
def flagAt (k : Nat) (x : Bool) : BitVec 24 := (BitVec.ofBool x).setWidth 24 <<< k

/-- The operand word B of a command, unnamed bits 0. -/
def encodeB : Instr → BitVec 24
  | .seCfg wl pe av vi => wl.setWidth 24 ||| pe.setWidth 24 <<< 8 ||| flagAt 11 av ||| flagAt 12 vi
  | .seEnc _ v => flagAt 0 v
  | .seEnc16 _ v => flagAt 0 v
  | .seEnc24p _ _ _ v => flagAt 0 v
  | .seVrange _ wl => wl.setWidth 24
  | .csWrb index _ => index.setWidth 24
  | .csRdb index => index.setWidth 24
  | .saCfg ap => flagAt 0 ap
  | .saBuild _ v u c pre => flagAt 0 v ||| flagAt 1 u ||| flagAt 2 c ||| pre.setWidth 24 <<< 8
  | .bmcEnc _ n prev => n.setWidth 24 ||| flagAt 8 prev
  | .bmcDec _ n => n.setWidth 24
  | .faStep _ vA uA _ vB uB => flagAt 0 vA ||| flagAt 1 uA ||| flagAt 2 vB ||| flagAt 3 uB
  | .seEmarst | .seEmard | .csClr | .csCrc | .csVal => 0
  | .csSetPro _ | .csSetPcm _ | .csSetEmph _ | .csSetLock _ | .csSetFs _ | .csSetAux _ | .csSetWlen _ | .csSetAlign _ => 0
  | .csGetPro | .csGetPcm | .csGetEmph | .csGetLock | .csGetFs | .csGetAux | .csGetWlen | .csGetAlign => 0
  | .sfLine _ => 0

/-- The operand word A of a command, unnamed bits 0. -/
def encodeA : Instr → BitVec 64
  | .seEnc sample _ => sample.setWidth 64
  | .seEnc16 sample _ => sample.setWidth 64
  | .seEnc24p b0 b1 b2 _ => b0.setWidth 64 ||| b1.setWidth 64 <<< 8 ||| b2.setWidth 64 <<< 16
  | .seVrange sample _ => sample.setWidth 64
  | .csWrb _ value => value.setWidth 64
  | .csSetPro x | .csSetPcm x | .csSetEmph x | .csSetLock x | .csSetFs x | .csSetAux x | .csSetWlen x | .csSetAlign x => x
  | .saBuild audio _ _ _ _ => audio.setWidth 64
  | .bmcEnc bits _ _ => bits.setWidth 64
  | .bmcDec coded _ => coded
  | .sfLine subframe => subframe
  | .faStep sampleA _ _ sampleB _ _ => sampleA.setWidth 64 ||| sampleB.setWidth 64 <<< 32
  | .seCfg _ _ _ _ | .seEmarst | .seEmard | .csClr | .csRdb _ | .csCrc | .csVal | .saCfg _ => 0
  | .csGetPro | .csGetPcm | .csGetEmph | .csGetLock | .csGetFs | .csGetAux | .csGetWlen | .csGetAlign => 0

/-- The command word of a command (R60, R63, R68). -/
def encode (i : Instr) : Cmd := mkCmd (opcodeByte i.opcode) (encodeB i) (encodeA i)

/-- What this decoder reads from a word of `nbits` bits numbered as `spec/opcode_table.json` numbers them; a command is
one 96-bit word (R67), and the bits above `nbits` are 0. -/
def decodeTableWord (nbits w : Nat) : Option Instr := decode (BitVec.ofNat 96 (w % 2 ^ nbits))

end Sys2Proof
end

