-- ==== Sys2Proof/Machine/Port.lean ====
section
/-! DEFINITION. The ports of an instance (`30_encoding.md` R70, `70_reset_and_hazards.md` R230): what is sampled in a step,
what it asks for, and what a step without a command does. -/
namespace Sys2Proof.Machine

/-- A port with nothing presented: `cmd_valid` = 0 and `rst` = 0. -/
def PortIn.idle : PortIn := { rst := false, cmdValid := false, cmd := 0 }

/-- A port with a command presented (R70). -/
def PortIn.command (cmd : Cmd) : PortIn := { rst := false, cmdValid := true, cmd := cmd }

/-- What the host drives in this step; with no more inputs it idles (R245 "idling"). -/
def State.portIn (s : State) : PortIn := s.inputs.headD PortIn.idle

/-- The state with this step's input taken. -/
def State.advanced (s : State) : State := { s with inputs := s.inputs.tail }

/-- The state with a command presented at the very next step. -/
def State.present (s : State) (cmd : Cmd) : State := { s with inputs := PortIn.command cmd :: s.inputs }

/-- What a step does, decided in the fixed order of `60_exceptions.md` R208: reset first, then the opcode. -/
inductive Action where
  | reset
  | idle
  | illegal
  | command (i : Instr)
  deriving DecidableEq, Repr

/-- The action an input asks for (R70, R208, R230). -/
def portAction (p : PortIn) : Action :=
  if p.rst then .reset
  else if p.cmdValid then
    match decode p.cmd with
    | none => .illegal
    | some i => .command i
  else .idle

/-- `rst` = 1: every piece of state takes its reset value, no response (R230). The parameter and the inputs still to
come are no state of CORE and stay. -/
def resetStep (s : State) : State := { State.reset with params := s.params, inputs := s.inputs }

/-- `cmd_valid` = 0 and `rst` = 0: no state changes and `rsp_valid` = 0 (R70). -/
def idleStep (s : State) : State := { s with rsp := none }

/-- An undefined opcode raises IllegalCommand: no state changes, `rsp(15, 0, 0, 0)` (R65). -/
def illegalCommand (s : State) : Host.Outcome State Fault Refusal := raise s .illegalCommand 0

end Sys2Proof.Machine
end

