-- ==== Sys2Proof/Machine/Step.lean ====
section
/-! DEFINITION. One step of an instance: it samples its ports and resets, idles, refuses an undefined opcode or executes
one command (`30_encoding.md` R70, `60_exceptions.md` R208). -/
namespace Sys2Proof.Machine

def step (s : State) : Host.Outcome State Fault Refusal :=
  match portAction s.portIn with
  | .reset => .next (resetStep s.advanced)
  | .idle => .next (idleStep s.advanced)
  | .illegal => illegalCommand s.advanced
  | .command i => exec i s.advanced

/-- The state with the table's word presented at the port in the very next step, before anything already queued. CORE
fetches nothing (`10_state.md` R11): the host presents commands, and this stands for that (log 2). -/
def State.withFetchWord (s : State) (nbits w : Nat) : State := s.present (BitVec.ofNat 96 (w % 2 ^ nbits))

end Sys2Proof.Machine
end

