-- ==== Sys2Proof/Machine/Instances.lean ====
section
/-! DEFINITION. Several instances: "A system of N instances is the product of N independent machines" (`60_exceptions.md`
R215; `10_state.md` R22; `20_memory.md` R50). Which instance steps next is the caller's choice (log 9). -/
namespace Sys2Proof.Machine

/-- Step the instance at place `k` of a system; a place that does not exist leaves the system alone. -/
def stepAt : List State → Nat → Host.Outcome (List State) Fault Refusal
  | [], _ => .next []
  | s :: sys, 0 =>
    match step s with
    | .next t => .next (t :: sys)
    | .fault r => .fault r
    | .refused r => .refused r
  | s :: sys, k + 1 =>
    match stepAt sys k with
    | .next sys' => .next (s :: sys')
    | .fault r => .fault r
    | .refused r => .refused r

end Sys2Proof.Machine
end

