-- ==== Sys2Proof/Machine/Pseudo.lean ====
section
/-! DEFINITION. The pseudo-command of `30_encoding.md` R69. It is no command of CORE: the host issues two commands and
carries the result of the first into the second. -/
namespace Sys2Proof.Machine

/-- `CS.SEAL`: `CS.CRC` ; `CS.WRB 23, r0[7:0]` (R69). -/
def csSeal (s : State) : Host.Outcome State Fault Refusal :=
  match exec .csCrc s with
  | .next t => exec (.csWrb 23 ((t.rsp.map fun r => r.r0.extractLsb' 0 8).getD 0)) t
  | o => o

end Sys2Proof.Machine
end

