-- ==== Sys2Proof/Safety.lean ====
section
/-! DEFINITION. What the claims are stated in: the invariant of the state, and runs of commands and of steps. A safe run
is one in which every step answers a next state; errors are statuses of responses (`60_exceptions.md` R203). -/
namespace Sys2Proof.Machine

/-- The invariant every step keeps: the record is in canonical form with no address past 23 (`20_memory.md` R40), the
parameter holds code 0 (`10_state.md` R21: "a model argument that excludes 0 is refused") and `SE_CFG.PE` is a supported
code (R13). `SE_CFG.WL` in 20..24 (R13) and `FA_FRAME` in 0..191 (R17) hold by their types. -/
abbrev State.Inv (s : State) : Prop :=
  s.csRec.wf ∧ 0 ∈ s.params.preemphSupported ∧ s.seCfg.pe ∈ s.params.preemphSupported

/-- The state an outcome goes on with. -/
def nextOf : Host.Outcome State Fault Refusal → Option State
  | .next t => some t
  | .fault _ => none
  | .refused _ => none

/-- The response an outcome goes on with. -/
def rspOf (o : Host.Outcome State Fault Refusal) : Option Response := (nextOf o).bind State.rsp

/-- The state after a list of commands executed in order (`20_memory.md` R47). -/
def runInstrs : List Instr → State → Option State
  | [], s => some s
  | i :: is, s => (nextOf (exec i s)).bind (runInstrs is)

/-- The step from `s` to `t` was a successful `FA.STEP` (`44_frame_block.md` R185). -/
def builtFrame (s t : State) : Bool :=
  match portAction s.portIn with
  | .command (.faStep _ _ _ _ _ _) => (t.rsp.map Response.st) == some .ok
  | _ => false

/-- `n` steps: how many of them built a frame, and the state after them. -/
def runFrames : Nat → State → Option (Nat × State)
  | 0, s => some (0, s)
  | n + 1, s =>
    (nextOf (step s)).bind fun t => (runFrames n t).map fun (k, u) => (k + (builtFrame s t).toNat, u)

end Sys2Proof.Machine
end

