-- ==== Sys2Proof/Certificates/Slice0/Obligations.lean ====
section
/-! DEFINITION. The statements for the provers, and the tables of the spec they are stated with. Every command's result
is stated as `exec i s = .next t` with all of t, so each such statement says that the command completes and is its frame
too: what t does not name is as in s. Numbers are written from the spec's text, not taken from the model's functions. -/
namespace Sys2Proof.Claims
open Sys2Proof Sys2Proof.Machine

/-- "Bits of A and B that a command's row in rule R63 does not name" are the zero bits of these masks: opcode, mask of B,
mask of A (`30_encoding.md` R63, R64). -/
def namedBits : List (Byte × BitVec 24 × BitVec 64) :=
  [(0x10, 0x001F1F, 0), (0x11, 0x000001, 0xFFFFFFFF), (0x12, 0x000001, 0xFFFF), (0x13, 0x000001, 0xFFFFFF),
   (0x14, 0x00001F, 0xFFFFFFFF), (0x15, 0, 0), (0x16, 0, 0)] ++
  [(0x20, 0, 0), (0x21, 0x00001F, 0xFF), (0x22, 0x00001F, 0), (0x23, 0, 0), (0x24, 0, 0)] ++
  [(0x28, 0, -1), (0x29, 0, -1), (0x2A, 0, -1), (0x2B, 0, -1), (0x2C, 0, -1), (0x2D, 0, -1), (0x2E, 0, -1),
   (0x2F, 0, -1)] ++
  [(0x30, 0, 0), (0x31, 0, 0), (0x32, 0, 0), (0x33, 0, 0), (0x34, 0, 0), (0x35, 0, 0), (0x36, 0, 0), (0x37, 0, 0)] ++
  [(0x40, 0x000001, 0), (0x41, 0x00FF07, 0xFFFFFF), (0x50, 0x00013F, 0xFFFFFFFF), (0x51, 0x00003F, -1), (0x52, 0, -1),
   (0x60, 0x00000F, -1)]

/-- The undefined opcodes as `30_encoding.md` R65 lists them. -/
def undefinedOpcode (op : Nat) : Bool :=
  decide (op ≤ 0x0F ∨ (0x17 ≤ op ∧ op ≤ 0x1F) ∨ (0x25 ≤ op ∧ op ≤ 0x27) ∨ (0x38 ≤ op ∧ op ≤ 0x3F) ∨
    (0x42 ≤ op ∧ op ≤ 0x4F) ∨ (0x53 ≤ op ∧ op ≤ 0x5F) ∨ (0x61 ≤ op ∧ op ≤ 0xFF))

/-- One named field of the record: its setter and getter with their opcodes, byte, low bit, width
(`41_channel_status.md` R101, R112 to R127). -/
structure FieldRow where
  setOp : Byte
  set : BitVec 64 → Instr
  getOp : Byte
  get : Instr
  byte : Nat
  lo : Nat
  width : Nat

/-- The eight fields (R101). -/
def fieldRows : List FieldRow :=
  [⟨0x28, .csSetPro, 0x30, .csGetPro, 0, 0, 1⟩, ⟨0x29, .csSetPcm, 0x31, .csGetPcm, 0, 1, 1⟩,
   ⟨0x2A, .csSetEmph, 0x32, .csGetEmph, 0, 2, 3⟩, ⟨0x2B, .csSetLock, 0x33, .csGetLock, 0, 5, 1⟩,
   ⟨0x2C, .csSetFs, 0x34, .csGetFs, 0, 6, 2⟩, ⟨0x2D, .csSetAux, 0x35, .csGetAux, 2, 0, 3⟩,
   ⟨0x2E, .csSetWlen, 0x36, .csGetWlen, 2, 3, 3⟩, ⟨0x2F, .csSetAlign, 0x37, .csGetAlign, 2, 6, 2⟩]

/-- The command writes byte j of the record (`10_state.md` R15: "written by `CS.CLR`, `CS.WRB` and the eight `CS.SET.*`
commands"). -/
def writesByte (j : Nat) : Instr → Bool
  | .csClr => true
  | .csWrb index _ => index.toNat == j
  | .csSetPro _ | .csSetPcm _ | .csSetEmph _ | .csSetLock _ | .csSetFs _ => j == 0
  | .csSetAux _ | .csSetWlen _ | .csSetAlign _ => j == 2
  | .seCfg _ _ _ _ | .seEnc _ _ | .seEnc16 _ _ | .seEnc24p _ _ _ _ | .seVrange _ _ | .seEmarst | .seEmard => false
  | .csRdb _ | .csCrc | .csVal | .csGetPro | .csGetPcm | .csGetEmph | .csGetLock | .csGetFs | .csGetAux | .csGetWlen
  | .csGetAlign => false
  | .saCfg _ | .saBuild _ _ _ _ _ | .bmcEnc _ _ _ | .bmcDec _ _ | .sfLine _ | .faStep _ _ _ _ _ _ => false

/-- The command is one of the reads of `20_memory.md` R46: `CS.RDB`, `CS.GET.*`, `CS.CRC`, `CS.VAL`. -/
def readsRecord : Instr → Bool
  | .csRdb _ | .csCrc | .csVal | .csGetPro | .csGetPcm | .csGetEmph | .csGetLock | .csGetFs | .csGetAux | .csGetWlen
  | .csGetAlign => true
  | .csClr | .csWrb _ _ | .csSetPro _ | .csSetPcm _ | .csSetEmph _ | .csSetLock _ | .csSetFs _ | .csSetAux _
  | .csSetWlen _ | .csSetAlign _ => false
  | .seCfg _ _ _ _ | .seEnc _ _ | .seEnc16 _ _ | .seEnc24p _ _ _ _ | .seVrange _ _ | .seEmarst | .seEmard => false
  | .saCfg _ | .saBuild _ _ _ _ _ | .bmcEnc _ _ _ | .bmcDec _ _ | .sfLine _ | .faStep _ _ _ _ _ _ => false

/-- The command writes some byte of the record. -/
def writesRecord : Instr → Bool
  | .csClr | .csWrb _ _ | .csSetPro _ | .csSetPcm _ | .csSetEmph _ | .csSetLock _ | .csSetFs _ | .csSetAux _
  | .csSetWlen _ | .csSetAlign _ => true
  | .csRdb _ | .csCrc | .csVal | .csGetPro | .csGetPcm | .csGetEmph | .csGetLock | .csGetFs | .csGetAux | .csGetWlen
  | .csGetAlign => false
  | .seCfg _ _ _ _ | .seEnc _ _ | .seEnc16 _ _ | .seEnc24p _ _ _ _ | .seVrange _ _ | .seEmarst | .seEmard => false
  | .saCfg _ | .saBuild _ _ _ _ _ | .bmcEnc _ _ _ | .bmcDec _ _ | .sfLine _ | .faStep _ _ _ _ _ _ => false

/-- The command writes `SE_EMA` when it succeeds (`10_state.md` R14). -/
def writesEma : Instr → Bool
  | .seEnc _ _ | .seEnc16 _ _ | .seEnc24p _ _ _ _ | .seEmarst | .faStep _ _ _ _ _ _ => true
  | .seCfg _ _ _ _ | .seVrange _ _ | .seEmard => false
  | .csClr | .csWrb _ _ | .csSetPro _ | .csSetPcm _ | .csSetEmph _ | .csSetLock _ | .csSetFs _ | .csSetAux _
  | .csSetWlen _ | .csSetAlign _ => false
  | .csRdb _ | .csCrc | .csVal | .csGetPro | .csGetPcm | .csGetEmph | .csGetLock | .csGetFs | .csGetAux | .csGetWlen
  | .csGetAlign => false
  | .saCfg _ | .saBuild _ _ _ _ _ | .bmcEnc _ _ _ | .bmcDec _ _ | .sfLine _ => false

/-- One input bit of the CRC on numbers, as the pseudocode of `41_channel_status.md` R104 has it. -/
def crcStepNat (c : Nat) (input : Bool) : Nat :=
  if input = decide (128 ≤ c) then 2 * c % 256 else 2 * c % 256 ^^^ 0x1D

/-- The CRC of a record on numbers: record bits 0 to 183 in order (R104 with `20_memory.md` R41). -/
def crcNat (m : Memory) : Nat :=
  (List.range 184).foldl (fun c n => crcStepNat c ((m.read (n / 8)).toNat.testBit (n % 8))) 0xFF

/-- The sample fits W bits: `−2^(W−1) <= signed_32(s) <= 2^(W−1) − 1` (`40_sample_encoder.md` R81). -/
abbrev fits (w : Nat) (x : Sample) : Prop := -(2 ^ (w - 1) : Int) ≤ x.toInt ∧ x.toInt ≤ 2 ^ (w - 1) - 1

/-- The generic encode accepts the sample under the configuration: validation off, or the sample fits
(`40_sample_encoder.md` R83). -/
abbrev accepted (cfg : SeCfg) (x : Sample) : Prop := cfg.vi = false ∨ fits cfg.wl.toNat x

/-- The audio word of a sample as a number: mask to 24 bits, times 2^(24−W), cut to 24 bits (R82). -/
def audioNat (w : Nat) (x : Sample) : Nat := x.toNat % 2 ^ 24 * 2 ^ (24 - w) % 2 ^ 24

/-- The number of ones among the logical bits of slots 4 to 31 (`42_subframe_assembler.md` R145). -/
def dataOnes (sf : Subframe) : Nat := (List.range 28).countP fun i => sf.getLsbD (2 * (i + 4))

/-- The subframes a command's response carries: `r0` of `SA.BUILD`, `r0` and `r1` of `FA.STEP`. -/
def subframesOf (r : Response) : Instr → List Subframe
  | .saBuild _ _ _ _ _ => [r.r0]
  | .faStep _ _ _ _ _ _ => [r.r0, r.r1]
  | .seCfg _ _ _ _ | .seEnc _ _ | .seEnc16 _ _ | .seEnc24p _ _ _ _ | .seVrange _ _ | .seEmarst | .seEmard => []
  | .csClr | .csWrb _ _ | .csSetPro _ | .csSetPcm _ | .csSetEmph _ | .csSetLock _ | .csSetFs _ | .csSetAux _
  | .csSetWlen _ | .csSetAlign _ => []
  | .csRdb _ | .csCrc | .csVal | .csGetPro | .csGetPcm | .csGetEmph | .csGetLock | .csGetFs | .csGetAux | .csGetWlen
  | .csGetAlign => []
  | .saCfg _ | .bmcEnc _ _ _ | .bmcDec _ _ | .sfLine _ => []

/-- The error statuses a command can raise, the column "can raise" of `30_encoding.md` R63 and "raised by" of
`60_exceptions.md` R200. -/
def raises : Instr → List Status
  | .seCfg _ _ _ _ => [.configError]
  | .seEnc _ _ => [.rangeError]
  | .seVrange _ _ => [.configError, .rangeError]
  | .csWrb _ _ | .csRdb _ => [.operandError]
  | .csSetPro _ | .csSetPcm _ | .csSetEmph _ | .csSetLock _ | .csSetFs _ | .csSetAux _ | .csSetWlen _
  | .csSetAlign _ => [.configError]
  | .bmcEnc _ _ _ | .bmcDec _ _ => [.operandError]
  | .faStep _ _ _ _ _ _ => [.rangeError]
  | .seEnc16 _ _ | .seEnc24p _ _ _ _ | .seEmarst | .seEmard => []
  | .csClr | .csCrc | .csVal | .csGetPro | .csGetPcm | .csGetEmph | .csGetLock | .csGetFs | .csGetAux | .csGetWlen
  | .csGetAlign => []
  | .saCfg _ | .saBuild _ _ _ _ _ | .sfLine _ => []

/-- The cases of ConfigError (`60_exceptions.md` R201 (a) to (d)). -/
def configErrorCase (s : State) : Instr → Prop
  | .seCfg wl pe _ _ => (wl.toNat < 20 ∨ 24 < wl.toNat) ∨ pe ∉ s.params.preemphSupported
  | .seVrange _ wl => wl.toNat < 20 ∨ 24 < wl.toNat
  | .csSetPro x | .csSetPcm x | .csSetLock x => 2 ≤ x.toNat
  | .csSetEmph x | .csSetAux x | .csSetWlen x => 8 ≤ x.toNat
  | .csSetFs x | .csSetAlign x => 4 ≤ x.toNat
  | .seEnc _ _ | .seEnc16 _ _ | .seEnc24p _ _ _ _ | .seEmarst | .seEmard => False
  | .csClr | .csWrb _ _ | .csRdb _ | .csCrc | .csVal | .csGetPro | .csGetPcm | .csGetEmph | .csGetLock | .csGetFs
  | .csGetAux | .csGetWlen | .csGetAlign => False
  | .saCfg _ | .saBuild _ _ _ _ _ | .bmcEnc _ _ _ | .bmcDec _ _ | .sfLine _ | .faStep _ _ _ _ _ _ => False

/-- The cases of RangeError (`60_exceptions.md` R202 (a) to (c)). -/
def rangeErrorCase (s : State) : Instr → Prop
  | .seEnc x _ => s.seCfg.vi = true ∧ ¬ fits s.seCfg.wl.toNat x
  | .seVrange x wl => (20 ≤ wl.toNat ∧ wl.toNat ≤ 24) ∧ ¬ fits wl.toNat x
  | .faStep a _ _ b _ _ => s.seCfg.vi = true ∧ (¬ fits s.seCfg.wl.toNat a ∨ ¬ fits s.seCfg.wl.toNat b)
  | .seCfg _ _ _ _ | .seEnc16 _ _ | .seEnc24p _ _ _ _ | .seEmarst | .seEmard => False
  | .csClr | .csWrb _ _ | .csRdb _ | .csCrc | .csVal | .csGetPro | .csGetPcm | .csGetEmph | .csGetLock | .csGetFs
  | .csGetAux | .csGetWlen | .csGetAlign => False
  | .csSetPro _ | .csSetPcm _ | .csSetEmph _ | .csSetLock _ | .csSetFs _ | .csSetAux _ | .csSetWlen _
  | .csSetAlign _ => False
  | .saCfg _ | .saBuild _ _ _ _ _ | .bmcEnc _ _ _ | .bmcDec _ _ | .sfLine _ => False

/-- The cases of OperandError (`60_exceptions.md` R206 (a), (b)). -/
def operandErrorCase : Instr → Prop
  | .csWrb index _ | .csRdb index => 24 ≤ index.toNat
  | .bmcEnc _ n _ | .bmcDec _ n => 33 ≤ n.toNat
  | .seCfg _ _ _ _ | .seEnc _ _ | .seEnc16 _ _ | .seEnc24p _ _ _ _ | .seVrange _ _ | .seEmarst | .seEmard => False
  | .csClr | .csCrc | .csVal | .csGetPro | .csGetPcm | .csGetEmph | .csGetLock | .csGetFs | .csGetAux | .csGetWlen
  | .csGetAlign => False
  | .csSetPro _ | .csSetPcm _ | .csSetEmph _ | .csSetLock _ | .csSetFs _ | .csSetAux _ | .csSetWlen _
  | .csSetAlign _ => False
  | .saCfg _ | .saBuild _ _ _ _ _ | .sfLine _ | .faStep _ _ _ _ _ _ => False

/-- The list is eight consecutive intervals of some coded sequence (`43_channel_coder.md` R166). -/
def isWindow (w : List Bool) : Prop :=
  w.length = 8 ∧ ∃ lvl bs k, w = ((bmcIntervals lvl bs).drop k).take 8

end Sys2Proof.Claims

open Sys2Proof Sys2Proof.Machine Sys2Proof.Claims

/-! ### Encoding -/

/-- Decoding an encoded command gives it back, every operand at every value (`30_encoding.md` sections 3 and 4). -/
def Obligations.DecodeOfEncodeIsTheCommand : Prop := ∀ i : Instr, decode (encode i) = some i

/-- Words written out in the spec decode to the command the spec says they are (`95_test_vectors.md` sections 2 and 3, the
examples of R110 in `41_channel_status.md` section 3 and of R162 in `43_channel_coder.md` section 2; opcodes and operands
as in `30_encoding.md` sections 3 and 4). -/
def Obligations.SpecWordsDecode : Prop :=
  decode 0x10_001814_0000000000000000 = some (.seCfg 20 0 true true) ∧
  decode 0x13_000000_0000000000123456 = some (.seEnc24p 0x56 0x34 0x12 false) ∧
  decode 0x21_000017_000000000000000D = some (.csWrb 23 0x0D) ∧
  decode 0x2A_000000_0000000000000004 = some (.csSetEmph 4) ∧
  decode 0x36_000000_0000000000000000 = some .csGetWlen ∧
  decode 0x41_00E806_0000000000123450 = some (.saBuild 0x123450 false true true 0xE8) ∧
  decode 0x50_000004_000000000000000B = some (.bmcEnc 0xB 4 false) ∧
  decode 0x60_00000D_FFFFFFFF007FFFFF = some (.faStep 0x007FFFFF true false 0xFFFFFFFF true true) ∧
  decode 0x00_000000_0000000000000000 = none

/-- R65: the 222 undefined opcodes, and what a step with one does. -/
def Obligations.UndefinedOpcodesRaiseIllegalCommand : Prop :=
  (∀ cmd : Cmd, decode cmd = none ↔ undefinedOpcode (cmd.extractLsb' 88 8).toNat = true) ∧
  (List.range 256).countP undefinedOpcode = 222 ∧ undefinedOpcode 0 = true ∧ Status.illegalCommand.code = 15 ∧
  ∀ (cmd : Cmd) (s : State), undefinedOpcode (cmd.extractLsb' 88 8).toNat = true →
    step (s.present cmd) = .next (s.withRsp .illegalCommand 0 0 0)

/-- R64: two words of one opcode that agree on the named bits are one command, in every state. -/
def Obligations.UnnamedBitsAreIgnored : Prop :=
  ∀ row ∈ namedBits, ∀ cmd cmd' : Cmd,
    cmd.extractLsb' 88 8 = row.1 → cmd'.extractLsb' 88 8 = row.1 →
    cmd.extractLsb' 64 24 &&& row.2.1 = cmd'.extractLsb' 64 24 &&& row.2.1 →
    cmd.extractLsb' 0 64 &&& row.2.2 = cmd'.extractLsb' 0 64 &&& row.2.2 →
    (decode cmd).isSome = true ∧ decode cmd = decode cmd' ∧ ∀ s : State, step (s.present cmd) = step (s.present cmd')

/-! ### Sample Encoder -/

/-- R80: `SE.CFG` replaces all four fields, or none. -/
def Obligations.SeCfgReplacesTheWholeConfiguration : Prop :=
  (∀ cmd : Cmd, cmd.extractLsb' 88 8 = 0x10#8 → decode cmd =
    some (.seCfg (cmd.extractLsb' 64 5) (cmd.extractLsb' 72 3) (cmd.getLsbD 75) (cmd.getLsbD 76))) ∧
  ∀ (wl : BitVec 5) (pe : BitVec 3) (av vi : Bool) (s : State),
    (20 ≤ wl.toNat ∧ wl.toNat ≤ 24 → pe ∈ s.params.preemphSupported →
      ∃ w : WordLength, w.toNat = wl.toNat ∧ w.code = wl ∧
        exec (.seCfg wl pe av vi) s =
          .next (({ s with seCfg := { wl := w, pe := pe, av := av, vi := vi } } : State).withRsp .ok 0 0 0)) ∧
    (wl.toNat < 20 ∨ 24 < wl.toNat ∨ pe ∉ s.params.preemphSupported →
      exec (.seCfg wl pe av vi) s = .next (s.withRsp .configError 0 0 0))

/-- R85 with R83: the generic encode. The new average is the free value `Config.emaUpdate` (log 3). -/
def Obligations.SeEncEncodesOrRefusesTheSample : Prop :=
  (∀ cmd : Cmd, cmd.extractLsb' 88 8 = 0x11#8 →
    decode cmd = some (.seEnc (cmd.extractLsb' 0 32) (cmd.getLsbD 64))) ∧
  ∀ (x : Sample) (isValid : Bool) (s : State),
    (accepted s.seCfg x → exec (.seEnc x isValid) s =
      .next (({ s with seEma := Config.emaUpdate s.seEma x.toInt } : State).withRsp .ok
        (BitVec.ofNat 64 ((if isValid then 0 else 2 ^ 24) + audioNat s.seCfg.wl.toNat x))
        (BitVec.ofNat 64 (x.toNat % 2 ^ (24 - s.seCfg.wl.toNat))) 0)) ∧
    (¬ accepted s.seCfg x → exec (.seEnc x isValid) s = .next (s.withRsp .rangeError 0 0 0))

/-- R86, R87: the two fast paths, whatever the configuration. -/
def Obligations.FastPathsIgnoreTheConfiguration : Prop :=
  (∀ cmd : Cmd, cmd.extractLsb' 88 8 = 0x12#8 →
    decode cmd = some (.seEnc16 (cmd.extractLsb' 0 16) (cmd.getLsbD 64))) ∧
  (∀ cmd : Cmd, cmd.extractLsb' 88 8 = 0x13#8 → decode cmd =
    some (.seEnc24p (cmd.extractLsb' 0 8) (cmd.extractLsb' 8 8) (cmd.extractLsb' 16 8) (cmd.getLsbD 64))) ∧
  (∀ (x : BitVec 16) (isValid : Bool) (s : State), exec (.seEnc16 x isValid) s =
    .next (({ s with seEma := Config.emaUpdate s.seEma x.toInt } : State).withRsp .ok
      (BitVec.ofNat 64 ((if isValid then 0 else 2 ^ 24) + 256 * x.toNat)) 0 0)) ∧
  ∀ (b0 b1 b2 : Byte) (isValid : Bool) (s : State),
    let n := b0.toNat + 256 * b1.toNat + 65536 * b2.toNat
    exec (.seEnc24p b0 b1 b2 isValid) s =
      .next (({ s with seEma := Config.emaUpdate s.seEma (BitVec.ofNat 24 n).toInt } : State).withRsp .ok
        (BitVec.ofNat 64 ((if isValid then 0 else 2 ^ 24) + n)) 0 0)

/-- R88: the word length is tested first, then the sample; nothing is changed. -/
def Obligations.SeVrangeTestsWordLengthThenSample : Prop :=
  (∀ cmd : Cmd, cmd.extractLsb' 88 8 = 0x14#8 →
    decode cmd = some (.seVrange (cmd.extractLsb' 0 32) (cmd.extractLsb' 64 5))) ∧
  ∀ (x : Sample) (wl : BitVec 5) (s : State),
    (wl.toNat < 20 ∨ 24 < wl.toNat → exec (.seVrange x wl) s = .next (s.withRsp .configError 0 0 0)) ∧
    (20 ≤ wl.toNat ∧ wl.toNat ≤ 24 → ¬ fits wl.toNat x → exec (.seVrange x wl) s = .next (s.withRsp .rangeError 0 0 0)) ∧
    (20 ≤ wl.toNat ∧ wl.toNat ≤ 24 → fits wl.toNat x → exec (.seVrange x wl) s = .next (s.withRsp .ok 0 0 0))

/-- `40_sample_encoder.md` section 2 (R89, R90): `SE.EMARST` sets the average to 0 and `SE.EMARD` then returns 0; in every state
`SE.EMARD` returns the average held, changing nothing. -/
def Obligations.EmaIsResetAndRead : Prop :=
  (∀ cmd : Cmd, cmd.extractLsb' 88 8 = 0x15#8 → decode cmd = some .seEmarst) ∧
  (∀ cmd : Cmd, cmd.extractLsb' 88 8 = 0x16#8 → decode cmd = some .seEmard) ∧
  ∀ s : State,
    exec .seEmarst s = .next (({ s with seEma := 0 } : State).withRsp .ok 0 0 0) ∧
    exec .seEmard s = .next (s.withRsp .ok (BitVec.ofNat 64 s.seEma.toNat) 0 0) ∧
    ∀ t, exec .seEmarst s = .next t → exec .seEmard t = .next (t.withRsp .ok 0 0 0)

/-- R81: the range test, and its equivalent on bits: `s[31:W−1]` all equal. -/
def Obligations.RangeTestIsEqualTopBits : Prop :=
  ∀ (x : Sample) (w : WordLength),
    (seInRange x w = true ↔ fits w.toNat x) ∧
    (seInRange x w = true ↔ ∀ i, w.toNat - 1 ≤ i → i < 32 → x.getLsbD i = x.getLsbD 31)

/-- R82, R91: which sample bit is where in the audio word and in the auxiliary field, in range or not. -/
def Obligations.JustifiedBitsAreTheSampleBits : Prop :=
  ∀ (x : Sample) (w : WordLength),
    (∀ i, i < 24 → (seJustifyAudio x w).getLsbD i =
      if i < 24 - w.toNat then false else x.getLsbD (i - (24 - w.toNat))) ∧
    (∀ i, i < 4 → (seJustifyAux x w).getLsbD i = if i < 24 - w.toNat then x.getLsbD i else false)

/-- R92: inverse justification recovers exactly the samples in range. -/
def Obligations.JustificationRoundTrip : Prop :=
  ∀ (x : Sample) (w : WordLength),
    (∀ aw : AudioWord, seUnjustify aw w = (aw.extractLsb' (24 - w.toNat) w.toNat).signExtend 32) ∧
    (seUnjustify (seJustifyAudio x w) w = x ↔ fits w.toNat x)

/-! ### Channel-status record -/

/-- `41_channel_status.md` section 3 (R109): all 24 bytes zero, nothing else changed, and the cleared record does not pass
`CS.VAL`. That the new record is in canonical form is the model's choice (log 6). -/
def Obligations.CsClrZeroesTheRecord : Prop :=
  (∀ cmd : Cmd, cmd.extractLsb' 88 8 = 0x20#8 → decode cmd = some .csClr) ∧
  ∀ s : State, ∃ m : Memory,
    exec .csClr s = .next (({ s with csRec := m } : State).withRsp .ok 0 0 0) ∧ m.wf ∧ (∀ a, m.read a = 0) ∧
    ∀ t, exec .csClr s = .next t → exec .csVal t = .next (t.withRsp .ok 0 0 0)

/-- R110: one byte written, no other; an index past 23 is refused. The read back needs the record in canonical form. -/
def Obligations.CsWrbWritesOneByte : Prop :=
  (∀ cmd : Cmd, cmd.extractLsb' 88 8 = 0x21#8 →
    decode cmd = some (.csWrb (cmd.extractLsb' 64 5) (cmd.extractLsb' 0 8))) ∧
  ∀ (index : BitVec 5) (value : Byte) (s : State),
    (index.toNat ≤ 23 → ∃ m : Memory,
      exec (.csWrb index value) s = .next (({ s with csRec := m } : State).withRsp .ok 0 0 0) ∧
      (s.csRec.wf → m.read index.toNat = value) ∧ ∀ a, a ≠ index.toNat → m.read a = s.csRec.read a) ∧
    (23 < index.toNat → exec (.csWrb index value) s = .next (s.withRsp .operandError 0 0 0))

/-- R111. -/
def Obligations.CsRdbReadsOneByte : Prop :=
  (∀ cmd : Cmd, cmd.extractLsb' 88 8 = 0x22#8 → decode cmd = some (.csRdb (cmd.extractLsb' 64 5))) ∧
  ∀ (index : BitVec 5) (s : State),
    (index.toNat ≤ 23 → exec (.csRdb index) s =
      .next (s.withRsp .ok (BitVec.ofNat 64 (s.csRec.read index.toNat).toNat) 0 0)) ∧
    (23 < index.toNat → exec (.csRdb index) s = .next (s.withRsp .operandError 0 0 0))

/-- R104, R105: the CRC of the pseudocode, on numbers, over record bits 0 to 183 in order. -/
def Obligations.CsCrcIsTheBitSerialCrc : Prop :=
  (∀ cmd : Cmd, cmd.extractLsb' 88 8 = 0x23#8 → decode cmd = some .csCrc) ∧
  ∀ s : State, exec .csCrc s = .next (s.withRsp .ok (BitVec.ofNat 64 (crcNat s.csRec)) 0 0)

/-- R106: the comparison as `r0[0]`, always with status OK. -/
def Obligations.CsValComparesWithByte23 : Prop :=
  (∀ cmd : Cmd, cmd.extractLsb' 88 8 = 0x24#8 → decode cmd = some .csVal) ∧
  ∀ s : State, exec .csVal s =
    .next (s.withRsp .ok (if crcNat s.csRec = (s.csRec.read 23).toNat then 1 else 0) 0 0)

/-- R107: after `CS.SEAL` byte 23 holds the CRC of bytes 0 to 22, `CS.VAL` returns 1, and recomputing after byte 23
alone is corrupted gives the same CRC. -/
def Obligations.SealMakesTheRecordValid : Prop :=
  ∀ s : State, s.csRec.wf → ∃ m : Memory,
    csSeal s = .next (({ s with csRec := m } : State).withRsp .ok 0 0 0) ∧
    (m.read 23).toNat = crcNat s.csRec ∧ (∀ a, a ≠ 23 → m.read a = s.csRec.read a) ∧
    ∀ t, csSeal s = .next t → exec .csVal t = .next (t.withRsp .ok 1 0 0) ∧
      ∀ v u, exec (.csWrb 23 v) t = .next u → exec .csCrc u = .next (u.withRsp .ok (BitVec.ofNat 64 (crcNat s.csRec)) 0 0)

/-- R108: one flipped bit among record bits 0 to 183 changes the CRC and makes a valid record invalid; more flipped bits
may leave it as it was. -/
def Obligations.OneFlippedBitChangesTheCrc : Prop :=
  (∀ (m m' : Memory) (n : Nat), n < 184 → (∀ k, k < 184 → csBit m' k = (csBit m k ^^ decide (k = n))) →
    crc8 m' ≠ crc8 m) ∧
  (∀ (s u : State) (n : Nat), s.csRec.wf → n < 184 → exec .csVal s = .next (s.withRsp .ok 1 0 0) →
    exec (.csWrb (BitVec.ofNat 5 (n / 8)) (s.csRec.read (n / 8) ^^^ (1#8 <<< (n % 8)))) s = .next u →
    exec .csVal u = .next (u.withRsp .ok 0 0 0)) ∧
  ∃ m m' : Memory, m.wf ∧ m'.wf ∧ 2 ≤ (List.range 184).countP (fun k => csBit m' k != csBit m k) ∧ crc8 m' = crc8 m

/-- R103, R112 to R119: each setter writes exactly the bits of its field, or refuses a value that does not fit. -/
def Obligations.SettersWriteExactlyTheirField : Prop :=
  ∀ row ∈ fieldRows,
    (∀ cmd : Cmd, cmd.extractLsb' 88 8 = row.setOp → decode cmd = some (row.set (cmd.extractLsb' 0 64))) ∧
    ∀ (x : BitVec 64) (s : State),
      (x.toNat < 2 ^ row.width → ∃ m : Memory,
        exec (row.set x) s = .next (({ s with csRec := m } : State).withRsp .ok 0 0 0) ∧
        (s.csRec.wf → ∀ k, k < 8 → (m.read row.byte).getLsbD k =
          if row.lo ≤ k ∧ k < row.lo + row.width then x.getLsbD (k - row.lo) else (s.csRec.read row.byte).getLsbD k) ∧
        ∀ a, a ≠ row.byte → m.read a = s.csRec.read a) ∧
      (2 ^ row.width ≤ x.toNat → exec (row.set x) s = .next (s.withRsp .configError 0 0 0))

/-- R120 to R127: each getter returns its field and changes nothing. -/
def Obligations.GettersReturnTheirField : Prop :=
  ∀ row ∈ fieldRows,
    (∀ cmd : Cmd, cmd.extractLsb' 88 8 = row.getOp → decode cmd = some row.get) ∧
    ∀ s : State, exec row.get s =
      .next (s.withRsp .ok (BitVec.ofNat 64 ((s.csRec.read row.byte).toNat / 2 ^ row.lo % 2 ^ row.width)) 0 0)

/-- R128: get after set, any commands between that do not write the field's byte; and a setter leaves every other
field's getter as it was. -/
def Obligations.GetAfterSetReturnsTheValue : Prop :=
  ∀ row ∈ fieldRows, ∀ (x : BitVec 64) (s t : State), x.toNat < 2 ^ row.width → s.csRec.wf →
    exec (row.set x) s = .next t →
    (∀ (is : List Instr) (u : State), (∀ i ∈ is, writesByte row.byte i = false) → runInstrs is t = some u →
      exec row.get u = .next (u.withRsp .ok x 0 0)) ∧
    ∀ other ∈ fieldRows, other.getOp ≠ row.getOp → rspOf (exec other.get t) = rspOf (exec other.get s)

/-! ### Subframe Assembler -/

/-- R142: the enable is stored, nothing else changes; with it off every subframe CORE builds has slot 31 clear, and its
data slots hold an even number of ones only for inputs with an even number of ones. -/
def Obligations.SaCfgSetsAutoParity : Prop :=
  (∀ cmd : Cmd, cmd.extractLsb' 88 8 = 0x40#8 → decode cmd = some (.saCfg (cmd.getLsbD 64))) ∧
  (∀ (ap : Bool) (s : State), exec (.saCfg ap) s = .next (({ s with saCfg := { ap := ap } } : State).withRsp .ok 0 0 0)) ∧
  (∀ (s t u : State) (i : Instr) (r : Response), exec (.saCfg false) s = .next t → exec i t = .next u → u.rsp = some r →
    ∀ sf ∈ subframesOf r i, sf.getLsbD 62 = false ∧ sf.getLsbD 63 = false) ∧
  ∀ (aw : AudioWord) (v u c : Bool) (pre : Byte), dataOnes (sfBuild aw v u c pre false) =
    (List.range 24).countP (fun i => aw.getLsbD i) + v.toNat + u.toNat + c.toNat

/-- R143, R144: every bit of the subframe `SA.BUILD` returns. -/
def Obligations.SaBuildLaysOutTheSubframe : Prop :=
  (∀ cmd : Cmd, cmd.extractLsb' 88 8 = 0x41#8 → decode cmd = some (.saBuild (cmd.extractLsb' 0 24) (cmd.getLsbD 64)
    (cmd.getLsbD 65) (cmd.getLsbD 66) (cmd.extractLsb' 72 8))) ∧
  ∀ (aw : AudioWord) (v u c : Bool) (pre : Byte) (s : State), ∃ sf : Subframe,
    exec (.saBuild aw v u c pre) s = .next (s.withRsp .ok sf 0 0) ∧
    (∀ i, i < 8 → sf.getLsbD i = pre.getLsbD i) ∧
    (∀ i, i < 24 → sf.getLsbD (8 + 2 * i) = aw.getLsbD (23 - i) ∧ sf.getLsbD (9 + 2 * i) = aw.getLsbD (23 - i)) ∧
    (sf.getLsbD 56 = v ∧ sf.getLsbD 57 = v) ∧ (sf.getLsbD 58 = u ∧ sf.getLsbD 59 = u) ∧
    (sf.getLsbD 60 = c ∧ sf.getLsbD 61 = c) ∧
    (s.saCfg.ap = false → sf.getLsbD 62 = false ∧ sf.getLsbD 63 = false) ∧
    (s.saCfg.ap = true →
      let p := decide (((List.range 24).countP (fun i => aw.getLsbD i) + v.toNat + u.toNat + c.toNat) % 2 = 1)
      sf.getLsbD 62 = p ∧ sf.getLsbD 63 = p)

/-- R145: even parity over slots 4 to 31 of every subframe CORE builds with auto-parity on, and every data slot 0b00 or
0b11. -/
def Obligations.BuiltSubframesHaveEvenParity : Prop :=
  ∀ (i : Instr) (s t : State) (r : Response), exec i s = .next t → t.rsp = some r → r.st = .ok →
    ∀ sf ∈ subframesOf r i,
      (∀ n, 4 ≤ n → n < 32 → sf.getLsbD (2 * n) = sf.getLsbD (2 * n + 1)) ∧
      (s.saCfg.ap = true → dataOnes sf % 2 = 0)

/-! ### Channel Coder -/

/-- R161, R162: level by level, the coded sequence and the last level; more than 32 bits are refused. -/
def Obligations.BmcEncCodesCellByCell : Prop :=
  (∀ cmd : Cmd, cmd.extractLsb' 88 8 = 0x50#8 →
    decode cmd = some (.bmcEnc (cmd.extractLsb' 0 32) (cmd.extractLsb' 64 6) (cmd.getLsbD 72))) ∧
  ∀ (bits : BitVec 32) (n : BitVec 6) (prev : Bool) (s : State),
    (n.toNat ≤ 32 → ∃ (coded : BitVec 64) (lvl : Nat → Bool),
      exec (.bmcEnc bits n prev) s = .next (s.withRsp .ok coded 0 (if lvl n.toNat then 1 else 0)) ∧ lvl 0 = prev ∧
      (∀ i, i < n.toNat → coded.getLsbD (2 * i) = !lvl i ∧
        coded.getLsbD (2 * i + 1) = (coded.getLsbD (2 * i) ^^ bits.getLsbD i) ∧ lvl (i + 1) = coded.getLsbD (2 * i + 1)) ∧
      ∀ j, 2 * n.toNat ≤ j → coded.getLsbD j = false) ∧
    (32 < n.toNat → exec (.bmcEnc bits n prev) s = .next (s.withRsp .operandError 0 0 0))

/-- R164, R165. -/
def Obligations.BmcDecReadsInsideEachCell : Prop :=
  (∀ cmd : Cmd, cmd.extractLsb' 88 8 = 0x51#8 →
    decode cmd = some (.bmcDec (cmd.extractLsb' 0 64) (cmd.extractLsb' 64 6))) ∧
  ∀ (coded : BitVec 64) (n : BitVec 6) (s : State),
    (n.toNat ≤ 32 → ∃ bits : BitVec 64, exec (.bmcDec coded n) s = .next (s.withRsp .ok bits 0 0) ∧
      ∀ i, bits.getLsbD i =
        if i < n.toNat then coded.getLsbD (2 * i) ^^ coded.getLsbD (2 * i + 1) else false) ∧
    (32 < n.toNat → exec (.bmcDec coded n) s = .next (s.withRsp .operandError 0 0 0))

/-- R167: decoding an encoded string gives it back; encoding a decoded sequence gives it back exactly when it is legal
after `prev`. -/
def Obligations.BmcRoundTrip : Prop :=
  (∀ (x : BitVec 32) (n : BitVec 6) (prev : Bool) (s : State), n.toNat ≤ 32 → x.toNat < 2 ^ n.toNat →
    ∃ (t : State) (r : Response), exec (.bmcEnc x n prev) s = .next t ∧ t.rsp = some r ∧
      exec (.bmcDec r.r0 n) t = .next (t.withRsp .ok (BitVec.ofNat 64 x.toNat) 0 0)) ∧
  ∀ (c : BitVec 64) (n : Nat) (prev : Bool), n ≤ 32 →
    ((bmcEncode (bmcDecode c n) n prev).1 = c ↔
      (∀ j, 2 * n ≤ j → c.getLsbD j = false) ∧
      ∀ i, i < n → c.getLsbD (2 * i) = !(if i = 0 then prev else c.getLsbD (2 * i - 1)))

/-- R163: complement, last level, disparity, and the bound on the running difference over a sequence of any length, which
is what `bmc_encode` returns and what chained sequences make together. -/
def Obligations.BmcComplementLastLevelAndDisparity : Prop :=
  (∀ (bits : BitVec 32) (n : Nat) (prev : Bool), n ≤ 32 →
    let zeros := (List.range n).countP (fun i => !bits.getLsbD i)
    let coded := (bmcEncode bits n prev).1
    let high := (List.range (2 * n)).countP (fun j => coded.getLsbD j)
    let low := (List.range (2 * n)).countP (fun j => !coded.getLsbD j)
    (∀ j, j < 2 * n → (bmcEncode bits n true).1.getLsbD j = !(bmcEncode bits n false).1.getLsbD j) ∧
    (bmcEncode bits n true).2 = !(bmcEncode bits n false).2 ∧
    (bmcEncode bits n prev).2 = (prev ^^ decide (zeros % 2 = 1)) ∧
    (high : Int) - low = (if zeros % 2 = 0 then 0 else if prev then -2 else 2) ∧
    ∀ j, j < 2 * n → (bmcIntervals prev ((bitList bits).take n))[j]? = some (coded.getLsbD j)) ∧
  (∀ lvl b, bmcLast lvl [b] = if b then lvl else !lvl) ∧
  (∀ lvl bs cs, bmcIntervals lvl bs ++ bmcIntervals (bmcLast lvl bs) cs = bmcIntervals lvl (bs ++ cs)) ∧
  ∀ (lvl : Bool) (bs : List Bool) (k : Nat),
    let sent := (bmcIntervals lvl bs).take k
    (sent.count true : Int) - sent.count false ≤ 2 ∧ -2 ≤ (sent.count true : Int) - sent.count false

/-- R166: what `bmc_encode` returns is the interval sequence; chained sequences are one sequence; no three equal
consecutive intervals in it; exactly 46 windows of eight intervals occur, and no preamble or complement is one, in
either bit order. -/
def Obligations.CodedDataHasNoThreeEqualIntervals : Prop :=
  (∀ (bits : BitVec 32) (n : Nat) (prev : Bool), n ≤ 32 → ∀ j, j < 2 * n →
    (bmcIntervals prev ((bitList bits).take n))[j]? = some ((bmcEncode bits n prev).1.getLsbD j)) ∧
  (∀ lvl bs cs, bmcIntervals lvl bs ++ bmcIntervals (bmcLast lvl bs) cs = bmcIntervals lvl (bs ++ cs)) ∧
  (∀ lvl bs i (a b c : Bool), (bmcIntervals lvl bs)[i]? = some a → (bmcIntervals lvl bs)[i + 1]? = some b →
    (bmcIntervals lvl bs)[i + 2]? = some c → ¬ (a = b ∧ b = c)) ∧
  (∃ ws : List (List Bool), ws.Nodup ∧ ws.length = 46 ∧ ∀ w, w ∈ ws ↔ isWindow w) ∧
  ([preambleX, preambleY, preambleZ] : List Byte) = [0xE2, 0xE4, 0xE8] ∧
  ∀ p ∈ ([0xE2, 0xE4, 0xE8, 0x1D, 0x1B, 0x17] : List Byte),
    ¬ isWindow ((List.range 8).map p.getLsbD) ∧ ¬ isWindow ((List.range 8).map p.getLsbD).reverse

/-- R168: the preamble passes through, the 28 payload bits are coded after its last interval; and a subframe built with
auto-parity and a standard preamble starts low and ends high with 32 high intervals, which without auto-parity or with
another preamble does not hold in general. -/
def Obligations.SfLineCodesThePayload : Prop :=
  (∀ cmd : Cmd, cmd.extractLsb' 88 8 = 0x52#8 → decode cmd = some (.sfLine (cmd.extractLsb' 0 64))) ∧
  (∃ aw v u c, (lineCode (sfBuild aw v u c 0xE2 false)).1.getLsbD 63 = false) ∧
  (∃ pre aw v u c, (lineCode (sfBuild aw v u c pre true)).1.getLsbD 63 = false) ∧
  ∀ (sf : Subframe) (s : State), ∃ line : BitVec 64,
    exec (.sfLine sf) s = .next (s.withRsp .ok line 0 (if line.getLsbD 63 then 1 else 0)) ∧
    (∀ j, j < 8 → line.getLsbD j = sf.getLsbD j) ∧
    (∀ i, i < 28 → line.getLsbD (8 + 2 * i) = !line.getLsbD (7 + 2 * i) ∧
      line.getLsbD (9 + 2 * i) = (line.getLsbD (8 + 2 * i) ^^ sf.getLsbD (8 + 2 * i))) ∧
    ∀ (aw : AudioWord) (v u c : Bool) (pre : Byte), pre ∈ ([0xE2, 0xE4, 0xE8] : List Byte) →
      sf = sfBuild aw v u c pre true →
      line.getLsbD 0 = false ∧ line.getLsbD 63 = true ∧ (List.range 64).countP (fun j => line.getLsbD j) = 32

/-- `95_test_vectors.md` section 2.4 "Chaining" with `70_reset_and_hazards.md` section 3: two commands, the second with
the last level of the first, equal one. -/
def Obligations.ChainedEncodesEqualOne : Prop :=
  ∀ (bits : BitVec 32) (n m : Nat) (prev : Bool), n + m ≤ 32 →
    let first := bmcEncode bits n prev
    let second := bmcEncode (bits >>> n) m first.2
    bmcEncode bits (n + m) prev = (first.1 ||| second.1 <<< (2 * n), second.2)

/-! ### Frame/Block Aggregator -/

/-- R180: the whole command: both subframes, the flags, the counter and the average on success; channel A's error, then
channel B's. The averages are the free value `Config.emaUpdate` (log 3). -/
def Obligations.FaStepBuildsTheNextFrame : Prop :=
  (∀ cmd : Cmd, cmd.extractLsb' 88 8 = 0x60#8 → decode cmd = some (.faStep (cmd.extractLsb' 0 32) (cmd.getLsbD 64)
    (cmd.getLsbD 65) (cmd.extractLsb' 32 32) (cmd.getLsbD 66) (cmd.getLsbD 67))) ∧
  ∀ (xA : Sample) (vA uA : Bool) (xB : Sample) (vB uB : Bool) (s : State),
    let f := s.faFrame.val
    let w := s.seCfg.wl.toNat
    let c := (s.csRec.read (f / 8)).getLsbD (f % 8)
    (accepted s.seCfg xA → accepted s.seCfg xB → exec (.faStep xA vA uA xB vB uB) s =
      .next (({ s with
          seEma := Config.emaUpdate (Config.emaUpdate s.seEma xA.toInt) xB.toInt
          faFrame := Fin.ofNat 192 (f + 1) } : State).withRsp .ok
        (sfBuild (BitVec.ofNat 24 (audioNat w xA)) (!vA) uA c (if f = 0 then 0xE8 else 0xE2) s.saCfg.ap)
        (sfBuild (BitVec.ofNat 24 (audioNat w xB)) (!vB) uB c 0xE4 s.saCfg.ap)
        (BitVec.ofNat 16 (f + (if f = 0 then 256 else 0) + (if f = 191 then 512 else 0))))) ∧
    (¬ accepted s.seCfg xA → exec (.faStep xA vA uA xB vB uB) s = .next (s.withRsp .rangeError 0 0 0)) ∧
    (accepted s.seCfg xA → ¬ accepted s.seCfg xB →
      exec (.faStep xA vA uA xB vB uB) s = .next (s.withRsp .rangeError 0 0 0x0400))

/-- `44_frame_block.md` section 2: "It is the source's pipeline ... run once per channel". A successful `FA.STEP` is
`SE.ENC` of each sample followed by `SA.BUILD` of each result with the record bit and the preamble of the frame. -/
def Obligations.FaStepIsThePipelinePerChannel : Prop :=
  ∀ (xA : Sample) (vA uA : Bool) (xB : Sample) (vB uB : Bool) (s t a b : State) (r rA rB : Response),
    exec (.faStep xA vA uA xB vB uB) s = .next t → t.rsp = some r →
    exec (.seEnc xA vA) s = .next a → a.rsp = some rA → exec (.seEnc xB vB) a = .next b → b.rsp = some rB →
    (r.st = .ok ↔ rA.st = .ok ∧ rB.st = .ok) ∧
    (r.st = .ok →
      t.seEma = b.seEma ∧
      rspOf (exec (.saBuild (rA.r0.extractLsb' 0 24) (rA.r0.getLsbD 24) uA (csBit s.csRec s.faFrame.val)
        (if s.faFrame.val = 0 then 0xE8 else 0xE2)) b) = some ⟨.ok, r.r0, 0, 0⟩ ∧
      rspOf (exec (.saBuild (rB.r0.extractLsb' 0 24) (rB.r0.getLsbD 24) uB (csBit s.csRec s.faFrame.val) 0xE4) b) =
        some ⟨.ok, r.r1, 0, 0⟩)

/-- R183, R186: both subframes carry the record bit of the frame, as the record is at that step. -/
def Obligations.FrameCarriesTheLiveRecordBit : Prop :=
  ∀ (xA : Sample) (vA uA : Bool) (xB : Sample) (vB uB : Bool) (s t : State) (r : Response),
    exec (.faStep xA vA uA xB vB uB) s = .next t → t.rsp = some r → r.st = .ok →
    (slot r.r0 30 = if (s.csRec.read (s.faFrame.val / 8)).getLsbD (s.faFrame.val % 8) then 0b11 else 0b00) ∧
    slot r.r1 30 = slot r.r0 30 ∧
    ∀ (v : Byte) (s0 : State), s0.csRec.wf →
      exec (.csWrb (BitVec.ofNat 5 (s0.faFrame.val / 8)) v) s0 = .next s →
      slot r.r0 30 = if v.getLsbD (s0.faFrame.val % 8) then 0b11 else 0b00

/-- R184: only a successful `FA.STEP` and reset change `FA_FRAME`; the advance, the wrap and its two marks. -/
def Obligations.FrameCounterAdvancesOnlyByFaStep : Prop :=
  ∀ s t : State, step s = .next t →
    (s.portIn.rst = true → t.faFrame.val = 0) ∧
    (builtFrame s t = true → s.portIn.rst = false ∧ t.faFrame.val = (s.faFrame.val + 1) % 192 ∧
      ∃ r, t.rsp = some r ∧ r.rf.getLsbD 8 = decide (s.faFrame.val = 0) ∧ r.rf.getLsbD 9 = decide (s.faFrame.val = 191)) ∧
    (s.portIn.rst = false → builtFrame s t = false → t.faFrame = s.faFrame)

/-- R185: from frame 0, over any run of steps without reset, the step that builds a frame after k others built frame
k mod 192, with the preambles, the record bit and the marks of that frame. -/
def Obligations.BlockAlignment : Prop :=
  ∀ (n k : Nat) (s t u : State) (r : Response),
    s.faFrame.val = 0 → (∀ p ∈ s.inputs, p.rst = false) → runFrames n s = some (k, t) →
    step t = .next u → builtFrame t u = true → u.rsp = some r →
    let f := k % 192
    r.rf.extractLsb' 0 8 = BitVec.ofNat 8 f ∧
    r.r0.extractLsb' 0 8 = (if f = 0 then 0xE8 else 0xE2) ∧ r.r1.extractLsb' 0 8 = 0xE4 ∧
    lbit r.r0 30 = csBit t.csRec f ∧ lbit r.r1 30 = csBit t.csRec f ∧
    r.rf.getLsbD 8 = decide (f = 0) ∧ r.rf.getLsbD 9 = decide ((k + 1) % 192 = 0)

/-! ### Errors -/

/-- R200: the codes, and which command can answer which status with what flags. -/
def Obligations.StatusesAreThoseOfTheTable : Prop :=
  [Status.ok, .configError, .rangeError, .integrityError, .transportError, .operandError, .illegalCommand].map
    Status.code = [0, 1, 2, 3, 4, 14, 15] ∧
  (∀ (i : Instr) (s t : State) (r : Response), exec i s = .next t → t.rsp = some r →
    (r.st = .ok ∨ r.st ∈ raises i) ∧
    (r.st ≠ .ok → r.rf = 0 ∨ r.rf = 0x0400 ∧ ∃ xA vA uA xB vB uB, i = .faStep xA vA uA xB vB uB)) ∧
  ∀ (s t : State) (r : Response), step s = .next t → t.rsp = some r →
    (r.st = .illegalCommand ↔ s.portIn.rst = false ∧ s.portIn.cmdValid = true ∧ decode s.portIn.cmd = none)

/-- R201, R202, R206: each error is raised in exactly the cases its rule lists. -/
def Obligations.ErrorsAreRaisedInExactlyTheListedCases : Prop :=
  ∀ (i : Instr) (s : State), ∃ r, rspOf (exec i s) = some r ∧
    (r.st = .configError ↔ configErrorCase s i) ∧ (r.st = .rangeError ↔ rangeErrorCase s i) ∧
    (r.st = .operandError ↔ operandErrorCase i)

/-- R203: every step answers a next state; an error leaves the state as it was, and the next command executes as if the
failed one had not been issued. (The input a step takes from the queue is the model's own, log 1.) -/
def Obligations.ErrorsLeaveNoTrace : Prop :=
  (∀ s : State, ∃ t, step s = .next t) ∧ (∀ (i : Instr) (s : State), ∃ t, exec i s = .next t) ∧
  (∀ (s t : State) (r : Response), step s = .next t → t.rsp = some r → r.st ≠ .ok →
    t = ({ s with inputs := s.inputs.tail } : State).withRsp r.st 0 0 r.rf) ∧
  ∀ (i : Instr) (s t : State) (r : Response), exec i s = .next t → t.rsp = some r → r.st ≠ .ok →
    t = s.withRsp r.st 0 0 r.rf ∧ ∀ j : Instr, exec j t = exec j s

/-! ### The whole machine -/

/-- `10_state.md` section 2, the summary of access: each item of state is written only by its writers. That no command
touches the parameter (log 4) or the inputs still to come (log 1) is the model's choice. -/
def Obligations.EachRegisterHasOnlyItsWriters : Prop :=
  ∀ (i : Instr) (s t : State), exec i s = .next t →
    ((∀ wl pe av vi, i ≠ .seCfg wl pe av vi) → t.seCfg = s.seCfg) ∧
    (writesEma i = false → t.seEma = s.seEma) ∧
    (writesRecord i = false → t.csRec = s.csRec) ∧
    (∀ a, writesByte a i = false → t.csRec.read a = s.csRec.read a) ∧
    ((∀ ap, i ≠ .saCfg ap) → t.saCfg = s.saCfg) ∧
    ((∀ xA vA uA xB vB uB, i ≠ .faStep xA vA uA xB vB uB) → t.faFrame = s.faFrame) ∧
    t.params = s.params ∧ t.inputs = s.inputs

/-- The frame of the commands that write no state: `SE.VRANGE`, `SE.EMARD`, `CS.RDB`, `CS.CRC`, `CS.VAL`, `CS.GET.*`,
`SA.BUILD`, `BMC.ENC`, `BMC.DEC`, `SF.LINE` ("State written: none" in each rule): every register and every byte of the
record is unchanged. That the parameter (log 4) and the inputs (log 1) are too is the model's choice. -/
def Obligations.PureCommandsChangeOnlyTheResponse : Prop :=
  ∀ (i : Instr) (s t : State), exec i s = .next t →
    (readsRecord i = true ∨ i = .seEmard ∨ (∃ x wl, i = .seVrange x wl) ∨ (∃ aw v u c pre, i = .saBuild aw v u c pre) ∨
      (∃ bits n prev, i = .bmcEnc bits n prev) ∨ (∃ coded n, i = .bmcDec coded n) ∨ (∃ sf, i = .sfLine sf)) →
    t.seCfg = s.seCfg ∧ t.seEma = s.seEma ∧ t.saCfg = s.saCfg ∧ t.faFrame = s.faFrame ∧ t.params = s.params ∧
    t.inputs = s.inputs ∧ ∀ a, t.csRec.read a = s.csRec.read a

/-- R46: no read has a side effect and may be repeated with the same result while no write intervenes; `FA.STEP` does not change the record; writes
are idempotent (on a record in canonical form, where equal records are equal data). -/
def Obligations.ReadsHaveNoSideEffectWritesAreIdempotent : Prop :=
  (∀ (i : Instr) (s t : State), readsRecord i = true → exec i s = .next t →
    t = { s with rsp := t.rsp } ∧ exec i t = .next t ∧
    ∀ (is : List Instr) (u : State), (∀ j ∈ is, writesRecord j = false) → runInstrs is t = some u →
      rspOf (exec i u) = t.rsp) ∧
  (∀ (xA : Sample) (vA uA : Bool) (xB : Sample) (vB uB : Bool) (s t : State),
    exec (.faStep xA vA uA xB vB uB) s = .next t → t.csRec = s.csRec) ∧
  ∀ (i : Instr) (s t : State), s.csRec.wf → writesRecord i = true → exec i s = .next t → exec i t = .next t

/-- `10_state.md` section 1 (R18): the response is an output of the step; no later command can read it. -/
def Obligations.NoCommandReadsTheResponse : Prop :=
  ∀ (i : Instr) (s : State) (r : Option Response), exec i { s with rsp := r } = exec i s

/-- R84: `AV` and `PE` have no effect on any output, and the validity output is always NOT `is_valid`. -/
def Obligations.AutoValidityAndPreEmphasisAreInert : Prop :=
  (∀ (i : Instr) (s t : State) (pe : BitVec 3) (av : Bool), exec i s = .next t →
    ∃ t', exec i { s with seCfg := { s.seCfg with pe := pe, av := av } } = .next t' ∧ t'.rsp = t.rsp ∧
      t'.seEma = t.seEma ∧ t'.csRec = t.csRec ∧ t'.saCfg = t.saCfg ∧ t'.faFrame = t.faFrame ∧
      t'.seCfg.wl = t.seCfg.wl ∧ t'.seCfg.vi = t.seCfg.vi) ∧
  (∀ (x : Sample) (v : Bool) (s t : State) (r : Response), exec (.seEnc x v) s = .next t → t.rsp = some r →
    r.st = .ok → r.r0.getLsbD 24 = !v) ∧
  (∀ (x : BitVec 16) (v : Bool) (s t : State) (r : Response), exec (.seEnc16 x v) s = .next t → t.rsp = some r →
    r.r0.getLsbD 24 = !v) ∧
  (∀ (b0 b1 b2 : Byte) (v : Bool) (s t : State) (r : Response), exec (.seEnc24p b0 b1 b2 v) s = .next t →
    t.rsp = some r → r.r0.getLsbD 24 = !v) ∧
  ∀ (xA : Sample) (vA uA : Bool) (xB : Sample) (vB uB : Bool) (s t : State) (r : Response),
    exec (.faStep xA vA uA xB vB uB) s = .next t → t.rsp = some r → r.st = .ok →
    lbit r.r0 28 = !vA ∧ lbit r.r1 28 = !vB

/-- `10_state.md` section 2 (the average has "no effect on output"): two states that differ only in `SE_EMA` go on alike,
but for the average and what `SE.EMARD` returns. -/
def Obligations.TheAverageIsReadOnlyByEmard : Prop :=
  ∀ (i : Instr) (s t : State) (e : BitVec 32), exec i s = .next t →
    ∃ t', exec i { s with seEma := e } = .next t' ∧ (i ≠ .seEmard → t'.rsp = t.rsp) ∧
      { t' with seEma := t.seEma, rsp := t.rsp } = t

/-- The invariant (`20_memory.md` section 1, `10_state.md` sections 2 and 3) is kept by every step, commands, reset,
idling and refused words alike. The canonical form of the record is the model's choice (log 6). -/
def Obligations.EveryStepKeepsTheInvariant : Prop := ∀ s t : State, s.Inv → step s = .next t → t.Inv

/-- The invariant holds at reset (`10_state.md` sections 2 and 3; the canonical form of the record is the model's choice,
log 6, and the parameter's value at reset is the default of `00_scope.md` R3, log 4). -/
def Obligations.ResetMeetsTheInvariant : Prop := State.reset.Inv

/-! ### Reset and ports -/

/-- R21: the reset values. -/
def Obligations.ResetValues : Prop :=
  State.reset.seCfg.wl.toNat = 24 ∧ State.reset.seCfg.pe = 0 ∧ State.reset.seCfg.av = true ∧
  State.reset.seCfg.vi = true ∧ State.reset.seEma = 0 ∧ (∀ a, a < 24 → State.reset.csRec.read a = 0x00) ∧
  State.reset.saCfg.ap = true ∧ State.reset.faFrame.val = 0 ∧
  State.reset.seCfg.pe ∈ State.reset.params.preemphSupported

/-- R230: a step with `rst` = 1 sets every item to its reset value whatever the command port holds, and gives no response;
no command, and no error, resets CORE as a whole. -/
def Obligations.RstOverridesTheCommand : Prop :=
  (∀ s : State, s.portIn.rst = true → ∃ t, step s = .next t ∧ t.rsp = none ∧
    t.seCfg.wl.toNat = 24 ∧ t.seCfg.pe = 0 ∧ t.seCfg.av = true ∧ t.seCfg.vi = true ∧ t.seEma = 0 ∧
    (∀ a, a < 24 → t.csRec.read a = 0x00) ∧ t.saCfg.ap = true ∧ t.faFrame.val = 0) ∧
  ∀ cmd : Cmd, ∃ s t : State, step (s.present cmd) = .next t ∧ t.faFrame.val ≠ 0

/-- R231: after reset CORE is usable at once, the first frame starts a block, and the record is not valid. -/
def Obligations.AfterResetTheFirstFrameStartsABlock : Prop :=
  (∀ (xA : Sample) (vA uA : Bool) (xB : Sample) (vB uB : Bool), fits 24 xA → fits 24 xB →
    ∃ t r, exec (.faStep xA vA uA xB vB uB) State.reset = .next t ∧ t.rsp = some r ∧ r.st = .ok ∧
      r.r0.extractLsb' 0 8 = 0xE8 ∧ r.r1.extractLsb' 0 8 = 0xE4 ∧ r.rf = 0x0100 ∧ t.faFrame.val = 1) ∧
  (∀ row ∈ fieldRows, exec row.get State.reset = .next (State.reset.withRsp .ok 0 0 0)) ∧
  exec .csVal State.reset = .next (State.reset.withRsp .ok 0 0 0) ∧
  exec (.csRdb 23) State.reset = .next (State.reset.withRsp .ok 0x00 0 0) ∧
  exec .csCrc State.reset = .next (State.reset.withRsp .ok 0x0D 0 0)

/-- `30_encoding.md` section 1 (R70): CORE is always ready; a response is driven exactly when a command is presented and
`rst` is 0; with neither, no state changes. The queue of inputs is the model's own (log 1), and so is that no step, reset
included, changes the parameter (log 4). -/
def Obligations.OneStepHandshake : Prop :=
  ∀ s : State, ∃ t, step s = .next t ∧ t.inputs = s.inputs.tail ∧ t.params = s.params ∧
    t.rsp.isSome = (s.portIn.cmdValid && !s.portIn.rst) ∧
    (s.portIn.cmdValid = false → s.portIn.rst = false → t = { s with inputs := s.inputs.tail, rsp := none })

/-- A step with a command presented and `rst` = 0 is `exec` of the decoded command, on the state with that input taken
(the queue of inputs is the model's own, log 1). -/
def Obligations.StepRunsTheDecodedCommand : Prop :=
  ∀ (p : PortIn) (rest : List PortIn) (s : State) (i : Instr),
    s.inputs = p :: rest → p.rst = false → p.cmdValid = true → decode p.cmd = some i →
    step s = exec i { s with inputs := rest }

/-! ### Several instances -/

/-- `60_exceptions.md` section 5 with `20_memory.md` section 4: a step of one instance leaves the others alone, is the step
it would make alone, and steps of two instances may be taken in either order. -/
def Obligations.InstancesDoNotAffectEachOther : Prop :=
  (∀ (sys sys' : List State) (k : Nat), stepAt sys k = .next sys' →
    (∀ j, j ≠ k → sys'[j]? = sys[j]?) ∧ ∀ s, sys[k]? = some s → ∃ t, step s = .next t ∧ sys'[k]? = some t) ∧
  ∀ (sys a b : List State) (j k : Nat), j ≠ k → stepAt sys j = .next a → stepAt a k = .next b →
    ∃ a', stepAt sys k = .next a' ∧ stepAt a' j = .next b
end

