-- ==== Sys2Proof/Laws/Bits.lean ====
section
/-! SUPPORT. The bit-sequence helpers: one lemma for each that says which bit is where. -/
namespace Sys2Proof.Machine

@[simp] theorem bitList_length {w : Nat} (v : BitVec w) : (bitList v).length = w := by simp [bitList]

theorem bitList_getElem? {w : Nat} (v : BitVec w) (i : Nat) :
    (bitList v)[i]? = if i < w then some (v.getLsbD i) else none := by
  simp only [bitList, List.getElem?_map]
  by_cases h : i < w
  · rw [List.getElem?_range h, if_pos h]; rfl
  · rw [List.getElem?_eq_none (by simpa using h), if_neg h]; rfl

theorem bitList_getD {w : Nat} (v : BitVec w) (i : Nat) : ((bitList v)[i]?).getD false = v.getLsbD i := by
  rw [bitList_getElem?]
  by_cases h : i < w
  · rw [if_pos h]; rfl
  · rw [if_neg h, BitVec.getLsbD_of_ge v i (by omega)]; rfl

theorem packNat_testBit (bs : List Bool) (i : Nat) : (packNat bs).testBit i = (bs[i]?).getD false := by
  induction bs generalizing i with
  | nil => simp [packNat]
  | cons b bs ih =>
    cases i with
    | zero => cases b <;> simp [packNat, Nat.testBit_zero]
    | succ i =>
      have : (packNat (b :: bs)) / 2 = packNat bs := by
        cases b <;> (simp [packNat]; try omega)
      rw [Nat.testBit_succ, this, ih]; simp

/-- Bit i of a packed word is element i of the list. -/
theorem packBits_getLsbD (w : Nat) (bs : List Bool) (i : Nat) :
    (packBits w bs).getLsbD i = (decide (i < w) && (bs[i]?).getD false) := by
  simp [packBits, BitVec.getLsbD_ofNat, packNat_testBit]

/-- Packing the bits of a word gives the word back. -/
theorem packBits_bitList {w : Nat} (v : BitVec w) : packBits w (bitList v) = v := by
  apply BitVec.eq_of_getLsbD_eq
  intro i h
  rw [packBits_getLsbD, bitList_getD, decide_eq_true h, Bool.true_and]

theorem packBits_inj {w : Nat} {bs cs : List Bool} (hb : bs.length = w) (hc : cs.length = w)
    (h : packBits w bs = packBits w cs) : bs = cs := by
  apply List.ext_getElem (by omega)
  intro i h1 h2
  have := congrArg (BitVec.getLsbD · i) h
  simp only [packBits_getLsbD, List.getElem?_eq_getElem h1, List.getElem?_eq_getElem h2, hb ▸ h1, decide_true,
    Bool.true_and, Option.getD_some] at this
  exact this

@[simp] theorem doubled_length (bs : List Bool) : (doubled bs).length = 2 * bs.length := by
  induction bs with
  | nil => rfl
  | cons b bs ih => simp [doubled] at ih ⊢; omega

theorem doubled_getElem?_even (bs : List Bool) (i : Nat) : (doubled bs)[2 * i]? = bs[i]? := by
  induction bs generalizing i with
  | nil => simp [doubled]
  | cons b bs ih =>
    cases i with
    | zero => simp [doubled]
    | succ i =>
      have := ih i
      simp only [doubled, List.flatMap_cons] at this ⊢
      rw [show 2 * (i + 1) = 2 * i + 1 + 1 by ring]
      simpa using this

theorem doubled_getElem?_odd (bs : List Bool) (i : Nat) : (doubled bs)[2 * i + 1]? = bs[i]? := by
  induction bs generalizing i with
  | nil => simp [doubled]
  | cons b bs ih =>
    cases i with
    | zero => simp [doubled]
    | succ i =>
      have := ih i
      simp only [doubled, List.flatMap_cons] at this ⊢
      rw [show 2 * (i + 1) + 1 = 2 * i + 1 + 1 + 1 by ring]
      simpa using this

@[simp] theorem bmcIntervals_length (lvl : Bool) (bs : List Bool) : (bmcIntervals lvl bs).length = 2 * bs.length := by
  induction bs generalizing lvl with
  | nil => rfl
  | cons b bs ih => simp [bmcIntervals, ih]; omega

/-- Coding a sequence in two parts, the second after the last level of the first (`70_reset_and_hazards.md` R242). -/
theorem bmcIntervals_append (lvl : Bool) (bs cs : List Bool) :
    bmcIntervals lvl (bs ++ cs) = bmcIntervals lvl bs ++ bmcIntervals (bmcLast lvl bs) cs := by
  induction bs generalizing lvl with
  | nil => rfl
  | cons b bs ih => simp [bmcIntervals, bmcLast, ih]

theorem bmcLast_append (lvl : Bool) (bs cs : List Bool) : bmcLast lvl (bs ++ cs) = bmcLast (bmcLast lvl bs) cs := by
  induction bs generalizing lvl with
  | nil => rfl
  | cons b bs ih => simp [bmcLast, ih]

end Sys2Proof.Machine
end

