-- ==== Sys2Proof/Laws/Decode.lean ====
section
/-! SUPPORT. The three fields of a command word, put together and taken apart (`30_encoding.md` R60). -/
namespace Sys2Proof

/-- Which field a bit of a command word lies in. -/
theorem mkCmd_getLsbD (op : Byte) (b : BitVec 24) (a : BitVec 64) (i : Nat) :
    (mkCmd op b a).getLsbD i =
      if i < 64 then a.getLsbD i else if i - 64 < 24 then b.getLsbD (i - 64) else op.getLsbD (i - 64 - 24) := by
  show BitVec.getLsbD ((op ++ b) ++ a) i = _
  rw [BitVec.getLsbD_append, BitVec.getLsbD_append]

@[simp] theorem cmdOp_mkCmd (op : Byte) (b : BitVec 24) (a : BitVec 64) : cmdOp (mkCmd op b a) = op := by
  apply BitVec.eq_of_getLsbD_eq; intro i h
  rw [cmdOp, BitVec.getLsbD_extractLsb', mkCmd_getLsbD, if_neg (by omega), if_neg (by omega), decide_eq_true h,
    Bool.true_and, show 88 + i - 64 - 24 = i by omega]

@[simp] theorem cmdB_mkCmd (op : Byte) (b : BitVec 24) (a : BitVec 64) : cmdB (mkCmd op b a) = b := by
  apply BitVec.eq_of_getLsbD_eq; intro i h
  rw [cmdB, BitVec.getLsbD_extractLsb', mkCmd_getLsbD, if_neg (by omega), if_pos (by omega), decide_eq_true h,
    Bool.true_and, show 64 + i - 64 = i by omega]

@[simp] theorem cmdA_mkCmd (op : Byte) (b : BitVec 24) (a : BitVec 64) : cmdA (mkCmd op b a) = a := by
  apply BitVec.eq_of_getLsbD_eq; intro i h
  rw [cmdA, BitVec.getLsbD_extractLsb', mkCmd_getLsbD, if_pos (by omega), decide_eq_true h, Bool.true_and,
    Nat.zero_add]

/-- A word is its three fields. -/
theorem mkCmd_fields (cmd : Cmd) : mkCmd (cmdOp cmd) (cmdB cmd) (cmdA cmd) = cmd := by
  apply BitVec.eq_of_getLsbD_eq; intro i h
  rw [mkCmd_getLsbD, cmdOp, cmdB, cmdA]
  split
  · simp only [BitVec.getLsbD_extractLsb', decide_eq_true ‹i < 64›, Bool.true_and, Nat.zero_add]
  · split
    · rw [BitVec.getLsbD_extractLsb', decide_eq_true ‹_›, Bool.true_and, show 64 + (i - 64) = i by omega]
    · rw [BitVec.getLsbD_extractLsb', decide_eq_true (by omega), Bool.true_and,
        show 88 + (i - 64 - 24) = i by omega]

/-- Every name has its byte in the table, and the byte selects the name. -/
theorem opcodeOfByte_opcodeByte (o : Opcode) : opcodeOfByte (opcodeByte o) = some o := by cases o <;> decide

end Sys2Proof
end

