-- ==== Sys2Proof/Laws/Memory.lean ====
section
/-! SUPPORT. The record as memory: read after write, the canonical form is kept, canonical memories with equal reads are
equal. -/
namespace Sys2Proof.Machine.Memory

@[simp] theorem read_nil (a : Nat) : read [] a = 0 := rfl

@[simp] theorem read_zeroed (a : Nat) : read zeroed a = 0 := rfl

theorem wf_nil : wf [] := by simp [wf]

theorem wf_zeroed : wf zeroed := wf_nil

theorem wf_tail {c : Host.Cell} {m : Memory} (h : wf (c :: m)) : wf m :=
  ⟨(List.pairwise_cons.1 h.1).2, fun d hd => h.2 d (List.mem_cons_of_mem _ hd)⟩

/-- An address below every listed one reads as unlisted. -/
theorem read_of_lt {m : Memory} {a : Nat} (h : ∀ c ∈ m, a < c.1) : read m a = unlisted := by
  induction m with
  | nil => rfl
  | cons c m ih =>
    have h1 := h c (List.mem_cons_self ..)
    have : a ≠ c.1 := by omega
    simp [read, this, ih fun d hd => h d (List.mem_cons_of_mem _ hd)]

theorem read_head_lt {c : Host.Cell} {m : Memory} {a : Nat} (h : wf (c :: m)) (ha : a ≤ c.1) : read m a = unlisted :=
  read_of_lt fun d hd => by have := (List.pairwise_cons.1 h.1).1 d hd; omega

theorem read_cell_append (m : Memory) (a : Nat) (v : Byte) (x : Nat) (h : read m a = unlisted) :
    read (cell a v ++ m) x = if x = a then v else read m x := by
  unfold cell
  split
  · rename_i hv
    split
    · rename_i hx; simp [hx, h, hv]
    · simp
  · simp [read]

/-- A write leaves every other address alone, whatever the memory. -/
theorem read_write_ne (m : Memory) {a x : Nat} (v : Byte) (h : x ≠ a) : read (write m a v) x = read m x := by
  induction m with
  | nil => unfold write cell; split <;> simp [read, h, unlisted]
  | cons c m ih =>
    obtain ⟨b, w⟩ := c
    unfold write
    split
    · unfold cell; split <;> simp [read, h]
    · split
      · rename_i hab
        unfold cell; split <;> simp [read, h, ← hab]
      · by_cases hx : x = b <;> simp [read, hx, ih]

/-- A read after a write to the same address gives the value written. -/
theorem read_write_self {m : Memory} (hm : wf m) (a : Nat) (v : Byte) : read (write m a v) a = v := by
  induction m with
  | nil => unfold write cell; split <;> simp_all [read]
  | cons c m ih =>
    obtain ⟨b, w⟩ := c
    unfold write
    split
    · rename_i hab
      rw [read_cell_append _ _ _ _ (read_of_lt ?_)]
      · simp
      · intro d hd
        rcases List.mem_cons.1 hd with rfl | hd
        · exact hab
        · have := (List.pairwise_cons.1 hm.1).1 d hd; omega
    · split
      · rename_i _ hab
        rw [read_cell_append _ _ _ _ (read_head_lt hm (by simp [hab]))]; simp
      · rename_i _ hab
        simp [read, hab, ih (wf_tail hm)]

theorem mem_write {m : Memory} {a : Nat} {v : Byte} {c : Host.Cell} (h : c ∈ write m a v) :
    (c = (a, v) ∧ v ≠ unlisted) ∨ c ∈ m := by
  induction m with
  | nil => unfold write cell at h; split at h <;> simp_all
  | cons d m ih =>
    obtain ⟨b, w⟩ := d
    unfold write at h
    split at h
    · unfold cell at h; split at h <;> simp_all
    · split at h
      · (unfold cell at h; split at h <;> simp_all); tauto
      · rcases List.mem_cons.1 h with h | h
        · simp [h]
        · rcases ih h with h | h
          · exact .inl h
          · exact .inr (List.mem_cons_of_mem _ h)

/-- A write at an address of the record keeps the canonical form. -/
theorem write_wf {m : Memory} (hm : wf m) {a : Nat} (ha : a < 24) (v : Byte) : wf (write m a v) := by
  refine ⟨?_, fun c hc => ?_⟩
  · induction m with
    | nil => unfold write cell; split <;> simp
    | cons c m ih =>
      obtain ⟨b, w⟩ := c
      have hp := List.pairwise_cons.1 hm.1
      unfold write
      split
      · rename_i hab
        unfold cell
        split
        · simpa using hm.1
        · refine List.pairwise_cons.2 ⟨fun d hd => ?_, hm.1⟩
          rcases List.mem_cons.1 hd with rfl | hd
          · exact hab
          · have := hp.1 d hd; simp at this ⊢; omega
      · split
        · rename_i _ hab
          unfold cell
          split
          · simpa using hp.2
          · exact List.pairwise_cons.2 ⟨fun d hd => by have := hp.1 d hd; simp at this ⊢; omega, hp.2⟩
        · refine List.pairwise_cons.2 ⟨fun d hd => ?_, ih (wf_tail hm)⟩
          rcases mem_write hd with ⟨rfl, -⟩ | hd
          · simp; omega
          · exact hp.1 d hd
  · rcases mem_write hc with ⟨rfl, hv⟩ | hc
    · exact ⟨ha, hv⟩
    · exact hm.2 c hc

/-- Canonical memories that read alike are equal. -/
theorem eq_of_read_eq {m n : Memory} (hm : wf m) (hn : wf n) (h : ∀ a, read m a = read n a) : m = n := by
  induction m generalizing n with
  | nil =>
    cases n with
    | nil => rfl
    | cons c n =>
      have := h c.1
      simp [read] at this
      exact absurd this.symm (hn.2 c (List.mem_cons_self ..)).2
  | cons c m ih =>
    cases n with
    | nil =>
      have := h c.1
      simp [read] at this
      exact absurd this (hm.2 c (List.mem_cons_self ..)).2
    | cons d n =>
      obtain ⟨b, v⟩ := c
      obtain ⟨e, w⟩ := d
      have hv := (hm.2 (b, v) (List.mem_cons_self ..)).2
      have hw := (hn.2 (e, w) (List.mem_cons_self ..)).2
      have hbe : b = e := by
        rcases Nat.lt_trichotomy b e with hlt | heq | hgt
        · have h1 := h b
          have : b ≠ e := by omega
          simp [read, this, read_head_lt hn (by simp; omega : b ≤ (e, w).1)] at h1
          exact absurd h1 hv
        · exact heq
        · have h1 := h e
          have : e ≠ b := by omega
          simp [read, this, read_head_lt hm (by simp; omega : e ≤ (b, v).1)] at h1
          exact absurd h1.symm hw
      subst hbe
      have hvw : v = w := by simpa [read] using h b
      subst hvw
      congr 1
      refine ih (wf_tail hm) (wf_tail hn) fun a => ?_
      by_cases hab : a = b
      · subst hab
        rw [read_head_lt hm (by simp), read_head_lt hn (by simp)]
      · simpa [read, hab] using h a

/-- Writing the same value twice is writing it once (`20_memory.md` R46). -/
theorem write_write_self {m : Memory} (hm : wf m) {a : Nat} (ha : a < 24) (v : Byte) :
    write (write m a v) a v = write m a v := by
  refine eq_of_read_eq (write_wf (write_wf hm ha v) ha v) (write_wf hm ha v) fun x => ?_
  by_cases hx : x = a
  · subst hx; rw [read_write_self (write_wf hm ha v), read_write_self hm]
  · rw [read_write_ne _ _ hx]

end Sys2Proof.Machine.Memory
end

