-- ==== Sys2Proof/Laws/State.lean ====
section
/-! SUPPORT. One lemma per field for each named update of State. -/
namespace Sys2Proof.Machine

@[simp] theorem State.withRsp_rsp (s : State) (st r0 r1 rf) : (s.withRsp st r0 r1 rf).rsp = some ⟨st, r0, r1, rf⟩ := rfl
@[simp] theorem State.withRsp_seCfg (s : State) (st r0 r1 rf) : (s.withRsp st r0 r1 rf).seCfg = s.seCfg := rfl
@[simp] theorem State.withRsp_seEma (s : State) (st r0 r1 rf) : (s.withRsp st r0 r1 rf).seEma = s.seEma := rfl
@[simp] theorem State.withRsp_csRec (s : State) (st r0 r1 rf) : (s.withRsp st r0 r1 rf).csRec = s.csRec := rfl
@[simp] theorem State.withRsp_saCfg (s : State) (st r0 r1 rf) : (s.withRsp st r0 r1 rf).saCfg = s.saCfg := rfl
@[simp] theorem State.withRsp_faFrame (s : State) (st r0 r1 rf) : (s.withRsp st r0 r1 rf).faFrame = s.faFrame := rfl
@[simp] theorem State.withRsp_params (s : State) (st r0 r1 rf) : (s.withRsp st r0 r1 rf).params = s.params := rfl
@[simp] theorem State.withRsp_inputs (s : State) (st r0 r1 rf) : (s.withRsp st r0 r1 rf).inputs = s.inputs := rfl

@[simp] theorem State.emaUpdated_rsp (s : State) (x) : (s.emaUpdated x).rsp = s.rsp := rfl
@[simp] theorem State.emaUpdated_seCfg (s : State) (x) : (s.emaUpdated x).seCfg = s.seCfg := rfl
@[simp] theorem State.emaUpdated_seEma (s : State) (x) : (s.emaUpdated x).seEma = Config.emaUpdate s.seEma x := rfl
@[simp] theorem State.emaUpdated_csRec (s : State) (x) : (s.emaUpdated x).csRec = s.csRec := rfl
@[simp] theorem State.emaUpdated_saCfg (s : State) (x) : (s.emaUpdated x).saCfg = s.saCfg := rfl
@[simp] theorem State.emaUpdated_faFrame (s : State) (x) : (s.emaUpdated x).faFrame = s.faFrame := rfl
@[simp] theorem State.emaUpdated_params (s : State) (x) : (s.emaUpdated x).params = s.params := rfl
@[simp] theorem State.emaUpdated_inputs (s : State) (x) : (s.emaUpdated x).inputs = s.inputs := rfl

@[simp] theorem State.advanced_rsp (s : State) : s.advanced.rsp = s.rsp := rfl
@[simp] theorem State.advanced_seCfg (s : State) : s.advanced.seCfg = s.seCfg := rfl
@[simp] theorem State.advanced_seEma (s : State) : s.advanced.seEma = s.seEma := rfl
@[simp] theorem State.advanced_csRec (s : State) : s.advanced.csRec = s.csRec := rfl
@[simp] theorem State.advanced_saCfg (s : State) : s.advanced.saCfg = s.saCfg := rfl
@[simp] theorem State.advanced_faFrame (s : State) : s.advanced.faFrame = s.faFrame := rfl
@[simp] theorem State.advanced_params (s : State) : s.advanced.params = s.params := rfl
@[simp] theorem State.advanced_inputs (s : State) : s.advanced.inputs = s.inputs.tail := rfl

@[simp] theorem State.present_portIn (s : State) (c : Cmd) : (s.present c).portIn = PortIn.command c := rfl
@[simp] theorem State.present_advanced (s : State) (c : Cmd) : (s.present c).advanced = s := rfl

@[simp] theorem resetStep_rsp (s : State) : (resetStep s).rsp = none := rfl
@[simp] theorem resetStep_params (s : State) : (resetStep s).params = s.params := rfl
@[simp] theorem resetStep_inputs (s : State) : (resetStep s).inputs = s.inputs := rfl
@[simp] theorem resetStep_csRec (s : State) : (resetStep s).csRec = [] := rfl
@[simp] theorem resetStep_faFrame (s : State) : (resetStep s).faFrame = 0 := rfl
@[simp] theorem resetStep_seCfg (s : State) : (resetStep s).seCfg = State.reset.seCfg := rfl
@[simp] theorem resetStep_seEma (s : State) : (resetStep s).seEma = 0 := rfl
@[simp] theorem resetStep_saCfg (s : State) : (resetStep s).saCfg = { ap := true } := rfl

@[simp] theorem idleStep_rsp (s : State) : (idleStep s).rsp = none := rfl
@[simp] theorem idleStep_params (s : State) : (idleStep s).params = s.params := rfl
@[simp] theorem idleStep_inputs (s : State) : (idleStep s).inputs = s.inputs := rfl
@[simp] theorem idleStep_csRec (s : State) : (idleStep s).csRec = s.csRec := rfl
@[simp] theorem idleStep_faFrame (s : State) : (idleStep s).faFrame = s.faFrame := rfl
@[simp] theorem idleStep_seCfg (s : State) : (idleStep s).seCfg = s.seCfg := rfl
@[simp] theorem idleStep_seEma (s : State) : (idleStep s).seEma = s.seEma := rfl
@[simp] theorem idleStep_saCfg (s : State) : (idleStep s).saCfg = s.saCfg := rfl

end Sys2Proof.Machine
end

