-- ==== Sys2Proof/Laws/Ops.lean ====
section
/-! SUPPORT. The shared operations of the commands: what each can answer, said once. -/
namespace Sys2Proof.Machine

/-- An error changes the response outputs and nothing else. -/
theorem raise_eq_next {s t : State} {e : Status} {info : BitVec 16} (h : raise s e info = .next t) :
    t = s.withRsp e 0 0 info := by
  simp [raise] at h; exact h.symm

theorem respond_eq_next {s t : State} {r0 r1 : BitVec 64} {rf : BitVec 16} (h : respond s r0 r1 rf = .next t) :
    t = s.withRsp .ok r0 r1 rf := by
  simp [respond] at h; exact h.symm

/-- Everything `wordLengthOfCode` can answer. -/
theorem wordLengthOfCode_eq_some {wl : BitVec 5} {w : WordLength} :
    wordLengthOfCode wl = some w ↔ wl.toNat = w.toNat := by
  cases w <;> revert wl <;> decide

theorem wordLengthOfCode_eq_none {wl : BitVec 5} :
    wordLengthOfCode wl = none ↔ wl.toNat < 20 ∨ 24 < wl.toNat := by revert wl; decide

theorem WordLength.toNat_bounds (w : WordLength) : 20 ≤ w.toNat ∧ w.toNat ≤ 24 := by cases w <;> decide

/-- Everything a setter can answer. -/
theorem setField_cases (f : FieldPos) (x : BitVec 64) (s : State) :
    (x.toNat < 2 ^ f.width ∧
      setField f x s = .next ({ s with csRec := csSet s.csRec f x }.withRsp .ok 0 0 0)) ∨
    (2 ^ f.width ≤ x.toNat ∧ setField f x s = .next (s.withRsp .configError 0 0 0)) := by
  by_cases h : 2 ^ f.width ≤ x.toNat
  · exact .inr ⟨h, by simp [setField, h, raise]⟩
  · exact .inl ⟨by omega, by simp [setField, h, respondOk, respond]⟩

/-- Everything `se_encode` can answer (R83). -/
theorem seEncode_cases (cfg : SeCfg) (s : Sample) (v : Bool) :
    (cfg.vi = true ∧ seInRange s cfg.wl = false ∧ seEncode cfg s v = none) ∨
    ((cfg.vi = false ∨ seInRange s cfg.wl = true) ∧
      seEncode cfg s v = some ⟨seJustifyAudio s cfg.wl, !v, seJustifyAux s cfg.wl⟩) := by
  cases hv : cfg.vi <;> cases hr : seInRange s cfg.wl <;> simp [seEncode, hv, hr]

/-- A field written inside the record reads back as the value written; a byte's other bits and all other bytes stay. -/
theorem read_csSet_self {m : Memory} (hm : m.wf) (f : FieldPos) (x : BitVec 64) :
    (csSet m f x).read f.byte = (m.read f.byte &&& ~~~ fieldMask f) ||| (x.setWidth 8 <<< f.lo) :=
  Memory.read_write_self hm _ _

theorem read_csSet_ne (m : Memory) (f : FieldPos) (x : BitVec 64) {a : Nat} (h : a ≠ f.byte) :
    (csSet m f x).read a = m.read a := Memory.read_write_ne _ _ h

theorem csSet_wf {m : Memory} (hm : m.wf) {f : FieldPos} (hf : f.byte < 24) (x : BitVec 64) : (csSet m f x).wf :=
  Memory.write_wf hm hf _

end Sys2Proof.Machine
end

