-- ==== Sys2Proof/Laws/PerInstr.lean ====
section
/-! SUPPORT. Laws made per command. OpcodeByte: the top byte of a command's encoded word is the opcode the table of
`30_encoding.md` R63 gives the command, written out here a second time. -/
namespace Sys2Proof.Laws.OpcodeByte

/-- The opcode of each command, from the rows of R63. -/
def tableByte : Instr → Byte
  | .seCfg _ _ _ _ => 0x10
  | .seEnc _ _ => 0x11
  | .seEnc16 _ _ => 0x12
  | .seEnc24p _ _ _ _ => 0x13
  | .seVrange _ _ => 0x14
  | .seEmarst => 0x15
  | .seEmard => 0x16
  | .csClr => 0x20
  | .csWrb _ _ => 0x21
  | .csRdb _ => 0x22
  | .csCrc => 0x23
  | .csVal => 0x24
  | .csSetPro _ => 0x28
  | .csSetPcm _ => 0x29
  | .csSetEmph _ => 0x2A
  | .csSetLock _ => 0x2B
  | .csSetFs _ => 0x2C
  | .csSetAux _ => 0x2D
  | .csSetWlen _ => 0x2E
  | .csSetAlign _ => 0x2F
  | .csGetPro => 0x30
  | .csGetPcm => 0x31
  | .csGetEmph => 0x32
  | .csGetLock => 0x33
  | .csGetFs => 0x34
  | .csGetAux => 0x35
  | .csGetWlen => 0x36
  | .csGetAlign => 0x37
  | .saCfg _ => 0x40
  | .saBuild _ _ _ _ _ => 0x41
  | .bmcEnc _ _ _ => 0x50
  | .bmcDec _ _ => 0x51
  | .sfLine _ => 0x52
  | .faStep _ _ _ _ _ _ => 0x60

def Statement (i : Instr) : Prop := cmdOp (encode i) = tableByte i

theorem of_byte {i : Instr} (h : opcodeByte i.opcode = tableByte i) : Statement i := by
  rw [Statement, encode, cmdOp_mkCmd, h]

theorem seCfg a b c d : Statement (.seCfg a b c d) := of_byte rfl
theorem seEnc a b : Statement (.seEnc a b) := of_byte rfl
theorem seEnc16 a b : Statement (.seEnc16 a b) := of_byte rfl
theorem seEnc24p a b c d : Statement (.seEnc24p a b c d) := of_byte rfl
theorem seVrange a b : Statement (.seVrange a b) := of_byte rfl
theorem seEmarst : Statement (.seEmarst) := of_byte rfl
theorem seEmard : Statement (.seEmard) := of_byte rfl
theorem csClr : Statement (.csClr) := of_byte rfl
theorem csWrb a b : Statement (.csWrb a b) := of_byte rfl
theorem csRdb a : Statement (.csRdb a) := of_byte rfl
theorem csCrc : Statement (.csCrc) := of_byte rfl
theorem csVal : Statement (.csVal) := of_byte rfl
theorem csSetPro a : Statement (.csSetPro a) := of_byte rfl
theorem csSetPcm a : Statement (.csSetPcm a) := of_byte rfl
theorem csSetEmph a : Statement (.csSetEmph a) := of_byte rfl
theorem csSetLock a : Statement (.csSetLock a) := of_byte rfl
theorem csSetFs a : Statement (.csSetFs a) := of_byte rfl
theorem csSetAux a : Statement (.csSetAux a) := of_byte rfl
theorem csSetWlen a : Statement (.csSetWlen a) := of_byte rfl
theorem csSetAlign a : Statement (.csSetAlign a) := of_byte rfl
theorem csGetPro : Statement (.csGetPro) := of_byte rfl
theorem csGetPcm : Statement (.csGetPcm) := of_byte rfl
theorem csGetEmph : Statement (.csGetEmph) := of_byte rfl
theorem csGetLock : Statement (.csGetLock) := of_byte rfl
theorem csGetFs : Statement (.csGetFs) := of_byte rfl
theorem csGetAux : Statement (.csGetAux) := of_byte rfl
theorem csGetWlen : Statement (.csGetWlen) := of_byte rfl
theorem csGetAlign : Statement (.csGetAlign) := of_byte rfl
theorem saCfg a : Statement (.saCfg a) := of_byte rfl
theorem saBuild a b c d e : Statement (.saBuild a b c d e) := of_byte rfl
theorem bmcEnc a b c : Statement (.bmcEnc a b c) := of_byte rfl
theorem bmcDec a b : Statement (.bmcDec a b) := of_byte rfl
theorem sfLine a : Statement (.sfLine a) := of_byte rfl
theorem faStep a b c d e f : Statement (.faStep a b c d e f) := of_byte rfl

end Sys2Proof.Laws.OpcodeByte
end

