-- ==== Sys2Proof/Tests/Slice0.lean ====
section
/-! SUPPORT. The model's own tests. Words and expected results are copied from the spec: the examples of the command rules
(files 40 to 44), `95_test_vectors.md` section 2, and the tables of `30_encoding.md`. The witnesses at the end meet the
hypotheses of the obligations. -/
namespace Sys2Proof.Tests
open Sys2Proof Sys2Proof.Machine Sys2Proof.Claims

/-! ### WellFormed refuses an ill-formed term of each check (R66, R103) -/

theorem test_wf_word_length : (Instr.seCfg 19 0 true true).wellFormed = false ∧
    (Instr.seCfg 25 0 true true).wellFormed = false ∧ (Instr.seCfg 20 0 true true).wellFormed = true := by decide
theorem test_wf_vrange : (Instr.seVrange 0 19).wellFormed = false ∧ (Instr.seVrange 0 25).wellFormed = false ∧
    (Instr.seVrange 0 24).wellFormed = true := by decide
theorem test_wf_index : (Instr.csWrb 24 0).wellFormed = false ∧ (Instr.csRdb 24).wellFormed = false ∧
    (Instr.csWrb 23 0).wellFormed = true ∧ (Instr.csRdb 23).wellFormed = true := by decide
theorem test_wf_setters_byte0 : (Instr.csSetPro 2).wellFormed = false ∧ (Instr.csSetPcm 2).wellFormed = false ∧
    (Instr.csSetEmph 8).wellFormed = false ∧ (Instr.csSetLock 2).wellFormed = false ∧
    (Instr.csSetFs 4).wellFormed = false ∧ (Instr.csSetPro 0x8000000000000001).wellFormed = false := by decide
theorem test_wf_setters_byte2 : (Instr.csSetAux 8).wellFormed = false ∧ (Instr.csSetWlen 8).wellFormed = false ∧
    (Instr.csSetAlign 4).wellFormed = false ∧ (Instr.csSetAlign 3).wellFormed = true := by decide
theorem test_wf_count : (Instr.bmcEnc 0 33 false).wellFormed = false ∧ (Instr.bmcDec 0 33).wellFormed = false ∧
    (Instr.bmcEnc 0 32 false).wellFormed = true ∧ (Instr.bmcDec 0 32).wellFormed = true := by decide

/-! ### Decoding: a word written out for every constructor (R63, R66, R68) -/

theorem test_decode_seCfg : decode 0x10_001814_0000000000000000 = some (.seCfg 20 0 true true) ∧
    decode 0x10_000718_0000000000000000 = some (.seCfg 24 7 false false) := by decide
theorem test_decode_seEnc : decode 0x11_000001_00000000007FFFFF = some (.seEnc 0x007FFFFF true) := by decide
theorem test_decode_seEnc16 : decode 0x12_000001_FFFFFFFFFFFF1234 = some (.seEnc16 0x1234 true) := by decide
theorem test_decode_seEnc24p : decode 0x13_000000_0000000000123456 = some (.seEnc24p 0x56 0x34 0x12 false) := by decide
theorem test_decode_seVrange : decode 0x14_000014_00000000FFF7FFFF = some (.seVrange 0xFFF7FFFF 20) := by decide
theorem test_decode_seEmarst : decode 0x15_000000_0000000000000000 = some .seEmarst := by decide
theorem test_decode_seEmard : decode 0x16_000000_0000000000000000 = some .seEmard := by decide
theorem test_decode_csClr : decode 0x20_ABCDEF_0123456789ABCDEF = some .csClr := by decide
theorem test_decode_csWrb : decode 0x21_000017_00000000000001FF = some (.csWrb 23 0xFF) := by decide
theorem test_decode_csRdb : decode 0x22_FFFFE0_FFFFFFFFFFFFFFFF = some (.csRdb 0) := by decide
theorem test_decode_csCrc_csVal : decode 0x23_000000_0000000000000000 = some .csCrc ∧
    decode 0x24_000000_0000000000000000 = some .csVal := by decide
theorem test_decode_setters_byte0 : decode 0x28_000000_8000000000000001 = some (.csSetPro 0x8000000000000001) ∧
    decode 0x29_000000_0000000000000001 = some (.csSetPcm 1) ∧
    decode 0x2A_000000_0000000000000004 = some (.csSetEmph 4) ∧
    decode 0x2B_000000_0000000000000001 = some (.csSetLock 1) ∧
    decode 0x2C_000000_0000000000000002 = some (.csSetFs 2) := by decide
theorem test_decode_setters_byte2 : decode 0x2D_000000_0000000000000001 = some (.csSetAux 1) ∧
    decode 0x2E_000000_0000000000000005 = some (.csSetWlen 5) ∧
    decode 0x2F_000000_0000000000000001 = some (.csSetAlign 1) := by decide
theorem test_decode_getters : decode 0x30_000000_0000000000000000 = some .csGetPro ∧
    decode 0x31_000000_0000000000000000 = some .csGetPcm ∧ decode 0x32_000000_0000000000000000 = some .csGetEmph ∧
    decode 0x33_000000_0000000000000000 = some .csGetLock ∧ decode 0x34_000000_0000000000000000 = some .csGetFs ∧
    decode 0x35_000000_0000000000000000 = some .csGetAux ∧ decode 0x36_000000_0000000000000000 = some .csGetWlen ∧
    decode 0x37_000000_0000000000000000 = some .csGetAlign := by decide
theorem test_decode_saCfg : decode 0x40_000001_0000000000000000 = some (.saCfg true) ∧
    decode 0x40_000000_0000000000000000 = some (.saCfg false) := by decide
theorem test_decode_saBuild : decode 0x41_00E806_0000000000123450 = some (.saBuild 0x123450 false true true 0xE8) := by
  decide
theorem test_decode_bmcEnc : decode 0x50_000104_000000000000000B = some (.bmcEnc 0xB 4 true) := by decide
theorem test_decode_bmcDec : decode 0x51_00003F_0000000000000000 = some (.bmcDec 0 63) := by decide
theorem test_decode_sfLine : decode 0x52_000000_C0FFFFFFFFFFFCE2 = some (.sfLine 0xC0FFFFFFFFFFFCE2) := by decide
theorem test_decode_faStep : decode 0x60_00000D_FFFFFFFF007FFFFF =
    some (.faStep 0x007FFFFF true false 0xFFFFFFFF true true) := by decide
theorem test_decode_undefined : decode 0x00_000000_0000000000000000 = none ∧
    decode 0x17_FFFFFF_FFFFFFFFFFFFFFFF = none ∧ decode 0x25_000000_0000000000000000 = none ∧
    decode 0x38_000000_0000000000000000 = none ∧ decode 0x61_000000_0000000000000000 = none ∧
    decode 0xFF_000000_0000000000000000 = none := by decide
/-- `CS.WRB 23, 0x1FF` as the opcode table numbers its bits. -/
theorem test_decodeTableWord : decodeTableWord 96 0x2100001700000000000001FF = some (.csWrb 23 0xFF) := by decide
/-- The opcode rows are pairwise different, so no byte selects two commands. -/
theorem test_opcodes_distinct : (opcodeTable.map Prod.fst).Nodup ∧ (opcodeTable.map Prod.snd).Nodup ∧
    opcodeTable.length = 34 := by decide +kernel

/-! ### One step each, from the examples of the spec -/

/-- The response to one word presented in state `s`: st, r0, r1, rf. -/
def answer (cmd : Cmd) (s : State) : Option (Nat × Nat × Nat × Nat) :=
  (rspOf (step (s.present cmd))).map fun r => (r.st.code.toNat, r.r0.toNat, r.r1.toNat, r.rf.toNat)

/-- The state after one word presented in state `s`. -/
def after (cmd : Cmd) (s : State) : State := (nextOf (step (s.present cmd))).getD s

/-- The reset state with another word length and VI. -/
def withW (w : WordLength) (vi : Bool) : State := { State.reset with seCfg := { wl := w, pe := 0, av := true, vi := vi } }

/-- The reset state with another record. -/
def withRec (m : Memory) : State := { State.reset with csRec := m }

/-- The record of program P2. -/
def recP2 : Memory := [(0, 0x91), (2, 0x69), (23, 0xB3)]

theorem test_seCfg : answer 0x10_001814_0000000000000000 State.reset = some (0, 0, 0, 0) ∧
    (after 0x10_001814_0000000000000000 State.reset).seCfg.wl = .w20 := by decide
theorem test_seCfg_rejected : answer 0x10_001813_0000000000000000 (withW .w20 true) = some (1, 0, 0, 0) ∧
    (after 0x10_001813_0000000000000000 (withW .w20 true)).seCfg.wl = .w20 := by decide
theorem test_seEnc : answer 0x11_000001_0000000000012345 (withW .w20 true) = some (0, 0x123450, 5, 0) ∧
    answer 0x11_000000_00000000FF800000 State.reset = some (0, 0x1800000, 0, 0) := by decide +kernel
theorem test_seEnc_out_of_range : answer 0x11_000001_0000000000080000 (withW .w20 true) = some (2, 0, 0, 0) ∧
    answer 0x11_000001_0000000000ABCDEF (withW .w20 false) = some (0, 0xBCDEF0, 0xF, 0) := by decide +kernel
theorem test_seEnc16 : answer 0x12_000000_0000000000008000 (withW .w20 true) = some (0, 0x1800000, 0, 0) := by
  decide +kernel
theorem test_seEnc24p : answer 0x13_000000_0000000000123456 (withW .w20 true) = some (0, 0x1123456, 0, 0) := by
  decide +kernel
theorem test_seVrange : answer 0x14_000014_00000000FFF80000 State.reset = some (0, 0, 0, 0) ∧
    answer 0x14_000014_00000000FFF7FFFF State.reset = some (2, 0, 0, 0) ∧
    answer 0x14_000019_0000000000800000 State.reset = some (1, 0, 0, 0) := by decide
theorem test_seEma : answer 0x16_000000_0000000000000000 State.reset = some (0, 0, 0, 0) ∧
    (after 0x15_000000_0000000000000000 { State.reset with seEma := 7 }).seEma = 0 := by decide
theorem test_csClr : (after 0x20_ABCDEF_0123456789ABCDEF (withRec recP2)).csRec = [] := by decide
theorem test_csWrb : answer 0x21_00001F_0000000000000001 State.reset = some (14, 0, 0, 0) ∧
    (after 0x21_000017_00000000000001FF (withRec recP2)).csRec = [(0, 0x91), (2, 0x69), (23, 0xFF)] := by decide
theorem test_csRdb : answer 0x22_000017_0000000000000000 (withRec recP2) = some (0, 0xB3, 0, 0) ∧
    answer 0x22_000018_0000000000000000 (withRec recP2) = some (14, 0, 0, 0) := by decide
theorem test_csCrc : answer 0x23_000000_0000000000000000 State.reset = some (0, 0x0D, 0, 0) ∧
    answer 0x23_000000_0000000000000000 (withRec [(0, 0x91), (2, 0x69), (5, 0x10)]) = some (0, 0x9A, 0, 0) := by
  decide +kernel
/-- "First eight steps" of R104. -/
theorem test_crc_register : (List.range 9).map (fun n => ((List.replicate n false).foldl crcBit 0xFF).toNat) =
    [0xFF, 0xE3, 0xDB, 0xAB, 0x4B, 0x96, 0x31, 0x62, 0xC4] := by decide +kernel
theorem test_csVal : answer 0x24_000000_0000000000000000 (withRec recP2) = some (0, 1, 0, 0) ∧
    answer 0x24_000000_0000000000000000 State.reset = some (0, 0, 0, 0) := by decide +kernel
theorem test_setters_byte0 :
    (after 0x28_000000_0000000000000001 State.reset).csRec = [(0, 0x01)] ∧
    (after 0x29_000000_0000000000000001 State.reset).csRec = [(0, 0x02)] ∧
    (after 0x2A_000000_0000000000000000 (withRec [(0, 0xFF)])).csRec = [(0, 0xE3)] ∧
    (after 0x2B_000000_0000000000000001 State.reset).csRec = [(0, 0x20)] ∧
    (after 0x2C_000000_0000000000000001 (withRec [(0, 0xE3)])).csRec = [(0, 0x63)] := by decide
theorem test_setters_byte2 :
    (after 0x2D_000000_0000000000000007 State.reset).csRec = [(2, 0x07)] ∧
    (after 0x2E_000000_0000000000000005 State.reset).csRec = [(2, 0x28)] ∧
    (after 0x2F_000000_0000000000000003 State.reset).csRec = [(2, 0xC0)] := by decide
theorem test_setters_refuse :
    [0x28_000000_8000000000000001, 0x29_000000_0000000000000002, 0x2A_000000_0000000000000008,
      0x2B_000000_0000000000000002, 0x2C_000000_0000000000000004, 0x2D_000000_0000000000000008,
      0x2E_000000_0000000000000008, 0x2F_000000_0000000000000004].all
      (fun cmd => answer cmd State.reset == some (1, 0, 0, 0)) = true := by decide +kernel
theorem test_getters :
    [0x30_000000_0000000000000000, 0x31_000000_0000000000000000, 0x32_000000_0000000000000000,
      0x33_000000_0000000000000000, 0x34_000000_0000000000000000, 0x35_000000_0000000000000000,
      0x36_000000_0000000000000000, 0x37_000000_0000000000000000].map (fun cmd => answer cmd (withRec recP2)) =
    [1, 0, 4, 0, 2, 1, 5, 1].map (fun r0 => some (0, r0, 0, 0)) := by decide +kernel
theorem test_saCfg : (after 0x40_000000_0000000000000000 State.reset).saCfg.ap = false := by decide
theorem test_saBuild : answer 0x41_00E806_0000000000123450 State.reset = some (0, 0xFC00CC0CF030C0E8, 0, 0) := by
  decide +kernel
theorem test_saBuild_without_parity :
    answer 0x41_00E407_0000000000FFFFFF { State.reset with saCfg := { ap := false } } =
      some (0, 0x3FFFFFFFFFFFFFE4, 0, 0) := by decide +kernel
theorem test_bmcEnc : answer 0x50_000004_000000000000000B State.reset = some (0, 0xB5, 0, 1) ∧
    answer 0x50_000120_0000000000000000 State.reset = some (0, 0xCCCCCCCCCCCCCCCC, 0, 1) := by decide +kernel
theorem test_bmcEnc_limit : answer 0x50_000021_0000000000000000 State.reset = some (14, 0, 0, 0) ∧
    answer 0x50_000020_00000000DEADBEEF State.reset = some (0, 0x52AB4B52B554AB55, 0, 0) := by decide +kernel
theorem test_bmcDec : answer 0x51_000004_00000000000000E2 State.reset = some (0, 0x5, 0, 0) ∧
    answer 0x51_00001C_00B3555555555554 State.reset = some (0, 0x8FFFFFE, 0, 0) ∧
    answer 0x51_00003F_0000000000000000 State.reset = some (14, 0, 0, 0) := by decide +kernel
theorem test_sfLine : answer 0x52_000000_C0FFFFFFFFFFFCE2 State.reset = some (0, 0xB3555555555554E2, 0, 1) ∧
    answer 0x52_000000_00FFFFFFFFFFFCE2 State.reset = some (0, 0x33555555555554E2, 0, 0) := by decide +kernel
theorem test_faStep : answer 0x60_00000D_FFFFFFFF007FFFFF (withRec recP2) =
    some (0, 0x30FFFFFFFFFFFCE8, 0x3CFFFFFFFFFFFFE4, 0x0100) := by decide +kernel
theorem test_faStep_refused :
    answer 0x60_000005_0000000000800000 State.reset = some (2, 0, 0, 0x0000) ∧
    answer 0x60_000005_FF7FFFFF00000000 State.reset = some (2, 0, 0, 0x0400) := by decide +kernel
theorem test_faStep_last_frame :
    answer 0x60_000005_0000000000000000 { withRec recP2 with faFrame := 191 } =
      some (0, 0xF0000000000000E2, 0xF0000000000000E4, 0x02BF) ∧
    (after 0x60_000005_0000000000000000 { withRec recP2 with faFrame := 191 }).faFrame = 0 := by decide +kernel
theorem test_undefined_opcode : answer 0x17_FFFFFF_FFFFFFFFFFFFFFFF State.reset = some (15, 0, 0, 0) := by decide
/-- R230: reset wins over the command presented with it. -/
theorem test_reset_overrides :
    let s := { withW .w20 false with faFrame := 7, inputs := [⟨true, true, 0x60_000005_0000000000000000⟩] }
    nextOf (step s) = some State.reset := by decide
/-- R70: with nothing presented nothing changes and there is no response. -/
theorem test_idle : nextOf (step State.reset) = some State.reset := by decide
theorem test_withFetchWord : step (State.reset.withFetchWord 96 0x300000000000000000000000) =
    exec .csGetPro State.reset := rfl

/-! ### Memory -/

theorem test_reset_memory : State.reset.csRec.wf := by decide
/-- Writing the value an unlisted address reads as removes the cell; writes keep the addresses rising. -/
theorem test_memory_canonical : Memory.write recP2 2 0 = [(0, 0x91), (23, 0xB3)] ∧
    Memory.write recP2 1 7 = [(0, 0x91), (1, 7), (2, 0x69), (23, 0xB3)] ∧ recP2.wf := by decide
/-- `se_unjustify` on the rows of `95_test_vectors.md` section 2.1. -/
theorem test_unjustify : seUnjustify 0xFFFFF0 .w20 = 0xFFFFFFFF ∧ seUnjustify 0xBCDEF0 .w20 = 0xFFFBCDEF := by decide

/-! ### Witnesses: states and operands that meet the hypotheses of each obligation -/

/-- A command word with each opcode byte exists. -/
theorem witness_opcode_words : ∀ row ∈ opcodeTable, (mkCmd row.1 0 0).extractLsb' 88 8 = row.1 := by decide
/-- The ends of the ranges of R65, and their neighbours. -/
theorem witness_UndefinedOpcodes :
    ([0, 0x0F, 0x17, 0x1F, 0x25, 0x27, 0x38, 0x3F, 0x42, 0x4F, 0x53, 0x5F, 0x61, 0xFF].all undefinedOpcode) = true ∧
    ([0x10, 0x16, 0x20, 0x24, 0x28, 0x37, 0x40, 0x41, 0x50, 0x52, 0x60].any undefinedOpcode) = false := by decide
theorem witness_UnnamedBits :
    let row : Byte × BitVec 24 × BitVec 64 := (0x22, 0x00001F, 0)
    let cmd : Cmd := 0x22_FFFFE3_FFFFFFFFFFFFFFFF
    let cmd' : Cmd := 0x22_000003_0000000000000000
    row ∈ namedBits ∧ cmd ≠ cmd' ∧ cmd.extractLsb' 88 8 = row.1 ∧ cmd'.extractLsb' 88 8 = row.1 ∧
    cmd.extractLsb' 64 24 &&& row.2.1 = cmd'.extractLsb' 64 24 &&& row.2.1 ∧
    cmd.extractLsb' 0 64 &&& row.2.2 = cmd'.extractLsb' 0 64 &&& row.2.2 := by decide
theorem witness_SeCfg : (7 : BitVec 3) ∈ State.reset.params.preemphSupported ∧
    (20 : BitVec 5).toNat = 20 ∧ (24 : BitVec 5).toNat = 24 ∧ (19 : BitVec 5).toNat < 20 ∧ 24 < (25 : BitVec 5).toNat ∧
    (7 : BitVec 3) ∉ ({ State.reset with params := { preemphSupported := [0] } } : State).params.preemphSupported := by
  decide
/-- Both ends of the range at W = 20 and W = 24, one past each, and validation off. -/
theorem witness_accepted : accepted (withW .w20 true).seCfg 0xFFF80000 ∧ accepted (withW .w20 true).seCfg 0x0007FFFF ∧
    ¬ accepted (withW .w20 true).seCfg 0xFFF7FFFF ∧ ¬ accepted (withW .w20 true).seCfg 0x00080000 ∧
    accepted State.reset.seCfg 0xFF800000 ∧ accepted State.reset.seCfg 0x007FFFFF ∧
    ¬ accepted State.reset.seCfg 0xFF7FFFFF ∧ ¬ accepted State.reset.seCfg 0x00800000 ∧
    accepted (withW .w20 false).seCfg 0x00080000 := by decide
theorem witness_SeVrange : (19 : BitVec 5).toNat < 20 ∧ 24 < (25 : BitVec 5).toNat ∧ fits 20 0xFFF80000 ∧
    ¬ fits 20 0xFFF7FFFF ∧ fits 24 0x007FFFFF ∧ ¬ fits 24 0x00800000 := by decide
theorem witness_Ema : ∃ t, exec .seEmarst { State.reset with seEma := 7 } = .next t := ⟨_, rfl⟩
theorem witness_RangeTest : seInRange 0x0007FFFF .w20 = true ∧ seInRange 0x00080000 .w20 = false ∧
    WordLength.w20.toNat - 1 = 19 ∧ seUnjustify (seJustifyAudio 0xFFF80000 .w20) .w20 = 0xFFF80000 ∧
    seUnjustify (seJustifyAudio 0x00080000 .w20) .w20 ≠ 0x00080000 := by decide
theorem witness_CsClr : ∃ t, exec .csClr (withRec recP2) = .next t := ⟨_, rfl⟩
theorem witness_Index : (23 : BitVec 5).toNat ≤ 23 ∧ 23 < (24 : BitVec 5).toNat ∧ recP2.wf ∧
    (22 : Nat) ≠ (23 : BitVec 5).toNat := by decide
theorem witness_Seal : recP2.wf ∧ (∃ t, csSeal (withRec recP2) = .next t ∧ ∃ u, exec (.csWrb 23 0) t = .next u) :=
  ⟨by decide, _, rfl, _, rfl⟩
theorem witness_OneFlip_records : ∀ k, k < 184 → csBit [(0, 0x90), (2, 0x69)] k = (csBit recP2 k ^^ decide (k = 0)) := by
  decide +kernel
theorem test_recP2_crc : (crc8 recP2 == recP2.read 23) = true := by decide +kernel
theorem witness_OneFlip_valid : recP2.wf ∧ exec .csVal (withRec recP2) = .next ((withRec recP2).withRsp .ok 1 0 0) ∧
    ∃ u, exec (.csWrb (BitVec.ofNat 5 (183 / 8)) (recP2.read (183 / 8) ^^^ (1#8 <<< (183 % 8)))) (withRec recP2) =
      .next u := ⟨by decide,
    by rw [exec, execCsVal, show (withRec recP2).csRec = recP2 from rfl, test_recP2_crc]; rfl, _, rfl⟩
/-- The greatest value each field holds, and the least it refuses. -/
theorem witness_Setters : ∀ row ∈ fieldRows, (BitVec.ofNat 64 (2 ^ row.width - 1)).toNat < 2 ^ row.width ∧
    2 ^ row.width ≤ (BitVec.ofNat 64 (2 ^ row.width)).toNat := by decide
theorem witness_GetAfterSet :
    let row : FieldRow := ⟨0x2A, .csSetEmph, 0x32, .csGetEmph, 0, 2, 3⟩
    (7 : BitVec 64).toNat < 2 ^ row.width ∧ recP2.wf ∧ ∃ t, exec (row.set 7) (withRec recP2) = .next t ∧
      (∀ i ∈ [Instr.csSetAux 3, .csWrb 1 5, .saCfg false], writesByte row.byte i = false) ∧
      ∃ u, runInstrs [.csSetAux 3, .csWrb 1 5, .saCfg false] t = some u :=
  ⟨by decide, by decide, _, rfl, by decide, _, rfl⟩
theorem witness_GetAfterSet_other : (⟨0x2A, .csSetEmph, 0x32, .csGetEmph, 0, 2, 3⟩ : FieldRow).getOp ≠
    (⟨0x28, .csSetPro, 0x30, .csGetPro, 0, 0, 1⟩ : FieldRow).getOp ∧ fieldRows.length = 8 := by decide
theorem witness_SaCfg : ∃ t u r, exec (.saCfg false) State.reset = .next t ∧
    exec (.saBuild 1 false false false 0xE2) t = .next u ∧ u.rsp = some r ∧
    r.r0 ∈ subframesOf r (.saBuild 1 false false false 0xE2) := ⟨_, _, _, rfl, rfl, rfl, List.mem_singleton_self _⟩
theorem witness_SaBuild : State.reset.saCfg.ap = true ∧
    ({ State.reset with saCfg := { ap := false } } : State).saCfg.ap = false := by decide
theorem witness_Parity : ∃ t r, exec (.saBuild 1 false false false 0xE2) State.reset = .next t ∧ t.rsp = some r ∧
    r.st = .ok ∧ r.r0 ∈ subframesOf r (.saBuild 1 false false false 0xE2) :=
  ⟨_, _, rfl, rfl, rfl, List.mem_singleton_self _⟩
theorem witness_BmcCount : (32 : BitVec 6).toNat ≤ 32 ∧ (0 : BitVec 6).toNat ≤ 32 ∧ 32 < (33 : BitVec 6).toNat ∧
    31 < (32 : BitVec 6).toNat ∧ 2 * (31 : BitVec 6).toNat ≤ 63 := by decide
theorem witness_BmcRoundTrip : (0xFFFFFFFF : BitVec 32).toNat < 2 ^ (32 : BitVec 6).toNat ∧
    (bmcEncode (bmcDecode 0xB5 4) 4 false).1 = 0xB5 ∧ (bmcEncode (bmcDecode 0xE2 4) 4 false).1 ≠ 0xE2 := by
  decide +kernel
theorem witness_NoThreeEqual : (bmcIntervals false [false, false])[0]? = some true ∧
    (bmcIntervals false [false, false])[1]? = some true ∧ (bmcIntervals false [false, false])[2]? = some false := by
  decide
theorem witness_SfLine : (0xE8 : Byte) ∈ ([0xE2, 0xE4, 0xE8] : List Byte) ∧
    (0x00000000000000E8 : Subframe) = sfBuild 0 false false false 0xE8 true := by decide +kernel
theorem witness_Chained : 4 + 4 ≤ 32 ∧ bmcEncode 0x5B 8 false = (0xD2B5, true) ∧ 16 + 16 ≤ 32 := by decide +kernel
/-- `FA.STEP` with both samples accepted; with A refused; with A accepted and B refused. -/
theorem witness_FaStep : accepted State.reset.seCfg 0x007FFFFF ∧ accepted State.reset.seCfg 0xFF800000 ∧
    ¬ accepted State.reset.seCfg 0x00800000 ∧ ¬ accepted State.reset.seCfg 0xFF7FFFFF := by decide
theorem witness_FaStep_pipeline : ∃ t a b r rA rB, exec (.faStep 0 true false 1 false true) State.reset = .next t ∧
    t.rsp = some r ∧ exec (.seEnc 0 true) State.reset = .next a ∧ a.rsp = some rA ∧ exec (.seEnc 1 false) a = .next b ∧
    b.rsp = some rB ∧ r.st = .ok := ⟨_, _, _, _, _, _, rfl, rfl, rfl, rfl, rfl, rfl, rfl⟩
/-- The same with A refused, and with A accepted and B refused. -/
theorem witness_FaStep_pipeline_refused : (∃ t a b r rA rB,
      exec (.faStep 0x00800000 true false 1 false true) State.reset = .next t ∧ t.rsp = some r ∧
      exec (.seEnc 0x00800000 true) State.reset = .next a ∧ a.rsp = some rA ∧ exec (.seEnc 1 false) a = .next b ∧
      b.rsp = some rB ∧ r.st = .rangeError ∧ rA.st = .rangeError ∧ rB.st = .ok) ∧
    ∃ t a b r rA rB, exec (.faStep 0 true false 0xFF7FFFFF false true) State.reset = .next t ∧ t.rsp = some r ∧
      exec (.seEnc 0 true) State.reset = .next a ∧ a.rsp = some rA ∧ exec (.seEnc 0xFF7FFFFF false) a = .next b ∧
      b.rsp = some rB ∧ r.st = .rangeError ∧ rA.st = .ok ∧ rB.st = .rangeError :=
  ⟨⟨_, _, _, _, _, _, rfl, rfl, rfl, rfl, rfl, rfl, rfl, rfl, rfl⟩,
    ⟨_, _, _, _, _, _, rfl, rfl, rfl, rfl, rfl, rfl, rfl, rfl, rfl⟩⟩
theorem witness_LiveBit :
    let s0 : State := { withRec recP2 with faFrame := 191 }
    s0.csRec.wf ∧ ∃ s t r, exec (.csWrb (BitVec.ofNat 5 (s0.faFrame.val / 8)) 0x80) s0 = .next s ∧
      exec (.faStep 0 true false 0 true false) s = .next t ∧ t.rsp = some r ∧ r.st = .ok :=
  ⟨by decide, _, _, _, rfl, rfl, rfl, rfl⟩
/-- Frame 191 built; a step with reset; an idle step. -/
theorem witness_FrameCounter :
    let s : State := { State.reset with faFrame := 191 }.present 0x60_000005_0000000000000000
    (∃ t, step s = .next t ∧ builtFrame s t = true) ∧
    ({ State.reset with inputs := [⟨true, true, 0⟩] } : State).portIn.rst = true ∧
    State.reset.portIn.rst = false ∧ builtFrame State.reset State.reset = false := ⟨⟨_, rfl, rfl⟩, rfl, rfl, rfl⟩
/-- One frame built, one idle step, then the step that builds frame 1; and with no step before, frame 0. -/
theorem witness_BlockAlignment :
    let fa : PortIn := .command 0x60_000005_0000000000000000
    let s : State := { State.reset with inputs := [fa, PortIn.idle, fa] }
    s.faFrame.val = 0 ∧ (∀ p ∈ s.inputs, p.rst = false) ∧
    (∃ t u r, runFrames 2 s = some (1, t) ∧ step t = .next u ∧ builtFrame t u = true ∧ u.rsp = some r) ∧
    ∃ t u r, runFrames 0 s = some (0, t) ∧ step t = .next u ∧ builtFrame t u = true ∧ u.rsp = some r :=
  ⟨by decide, by decide, ⟨_, _, _, rfl, rfl, rfl, rfl⟩, ⟨_, _, _, rfl, rfl, rfl, rfl⟩⟩
theorem witness_Status : ∃ t r, exec (.faStep 0 true false 0xFF7FFFFF true false) State.reset = .next t ∧
    t.rsp = some r ∧ r.st ≠ .ok ∧ r.rf = 0x0400 := ⟨_, _, rfl, rfl, by decide, by decide⟩
theorem witness_Status_step : ∃ t r, step (State.reset.present 0) = .next t ∧ t.rsp = some r ∧ r.st = .illegalCommand :=
  ⟨_, _, rfl, rfl, rfl⟩
theorem witness_NoTrace : ∃ t r, exec (.csRdb 24) State.reset = .next t ∧ t.rsp = some r ∧ r.st ≠ .ok :=
  ⟨_, _, rfl, rfl, by decide⟩
theorem witness_Writers : (∃ t, exec (.csSetPro 1) State.reset = .next t) ∧ writesEma (.csSetPro 1) = false ∧
    writesByte 1 (.csSetPro 1) = false ∧ writesByte 22 (.csWrb 23 0) = false ∧ writesRecord (.saCfg true) = false :=
  ⟨⟨_, rfl⟩, by decide⟩
theorem witness_Pure : (∃ t, exec .csCrc (withRec recP2) = .next t) ∧ readsRecord .csCrc = true ∧
    (∃ t, exec .seEmard State.reset = .next t) ∧ (∃ t, exec (.seVrange 0 20) State.reset = .next t) ∧
    (∃ t, exec (.saBuild 0 true true true 0) State.reset = .next t) ∧
    (∃ t, exec (.bmcEnc 0 32 true) State.reset = .next t) ∧ (∃ t, exec (.bmcDec 0 32) State.reset = .next t) ∧
    ∃ t, exec (.sfLine 0) State.reset = .next t :=
  ⟨⟨_, rfl⟩, rfl, ⟨_, rfl⟩, ⟨_, rfl⟩, ⟨_, rfl⟩, ⟨_, rfl⟩, ⟨_, rfl⟩, ⟨_, rfl⟩⟩
theorem witness_Reads : readsRecord .csVal = true ∧ (∃ t, exec .csVal (withRec recP2) = .next t ∧
      ∃ u, runInstrs [.csCrc, .saCfg true] t = some u) ∧ writesRecord .csCrc = false ∧
    writesRecord (.csSetEmph 4) = true ∧ recP2.wf ∧ (∃ t, exec (.csSetEmph 4) (withRec recP2) = .next t) ∧
    ∃ t, exec (.faStep 0 true false 0 true false) (withRec recP2) = .next t :=
  ⟨rfl, ⟨_, rfl, _, rfl⟩, rfl, rfl, by decide, ⟨_, rfl⟩, ⟨_, rfl⟩⟩
theorem witness_AvPe : (∃ t r, exec (.seEnc 1 false) State.reset = .next t ∧ t.rsp = some r ∧ r.st = .ok) ∧
    (∃ t r, exec (.seEnc16 1 false) State.reset = .next t ∧ t.rsp = some r) ∧
    (∃ t r, exec (.seEnc24p 1 2 3 true) State.reset = .next t ∧ t.rsp = some r) ∧
    ∃ t r, exec (.faStep 0 true false 1 false true) State.reset = .next t ∧ t.rsp = some r ∧ r.st = .ok :=
  ⟨⟨_, _, rfl, rfl, rfl⟩, ⟨_, _, rfl, rfl⟩, ⟨_, _, rfl, rfl⟩, ⟨_, _, rfl, rfl, rfl⟩⟩
theorem witness_TheAverage : (∃ t, exec (.saCfg true) State.reset = .next t) ∧ Instr.saCfg true ≠ .seEmard :=
  ⟨⟨_, rfl⟩, by decide⟩
theorem witness_Invariant : (withRec recP2).Inv ∧
    ∃ t, step ((withRec recP2).present 0x21_000017_00000000000001FF) = .next t := ⟨by decide, _, rfl⟩
theorem witness_Rst : ({ State.reset with inputs := [⟨true, true, 0x60_000005_0000000000000000⟩] } : State).portIn.rst =
    true := by decide
theorem witness_AfterReset : fits 24 0x007FFFFF ∧ fits 24 0xFF800000 := by decide
theorem witness_Handshake : State.reset.portIn.cmdValid = false ∧ State.reset.portIn.rst = false := by decide
theorem witness_StepRuns :
    let p : PortIn := .command 0x40_000001_0000000000000000
    ({ State.reset with inputs := [p, PortIn.idle] } : State).inputs = p :: [PortIn.idle] ∧ p.rst = false ∧
    p.cmdValid = true ∧ decode p.cmd = some (.saCfg true) := by decide
theorem witness_Instances : ∃ a b, (0 : Nat) ≠ 1 ∧
    stepAt [State.reset.present 0x40_000000_0000000000000000, State.reset.present 0] 0 = .next a ∧
    stepAt a 1 = .next b := ⟨_, _, by decide, rfl, rfl⟩

end Sys2Proof.Tests
end

section
/-! The reset state (`10_state.md` R21). -/
namespace Sys2Proof.Proofs
open Sys2Proof Sys2Proof.Machine

/-- R21: the record lists no cell after reset, so every byte reads as the reset byte. -/
@[simp] theorem read_reset_csRec (a : Nat) : State.reset.csRec.read a = 0x00 := Memory.read_nil a

/-- The pre-emphasis code of reset is in PREEMPH_SUPPORTED at its default (`00_scope.md` R3). -/
theorem reset_pe_supported : State.reset.seCfg.pe ∈ State.reset.params.preemphSupported := by decide

/-- Settles O49: each item is read off the reset state; the record's bytes are those of an empty memory. -/
theorem resetValues : Obligations.ResetValues := by
  unfold Obligations.ResetValues
  exact ⟨rfl, rfl, rfl, rfl, rfl, fun a _ => read_reset_csRec a, rfl, rfl, reset_pe_supported⟩

end Sys2Proof.Proofs
end

section
/-! The record under the commands: those that read it, leave it alone, or write it (`20_memory.md` R46). -/
namespace Sys2Proof.Proofs
open Sys2Proof Sys2Proof.Machine Sys2Proof.Claims

/-! ### Reads -/

/-- The meaning of a read: it drives a response made from the record alone, and changes nothing else. -/
def AnswersFromRecord (e : State → Host.Outcome State Fault Refusal) : Prop :=
  ∃ f : Memory → Response, ∀ s, e s = .next { s with rsp := some (f s.csRec) }

theorem getField_answersFromRecord (f : FieldPos) : AnswersFromRecord (getField f) :=
  ⟨fun m => ⟨.ok, zext64 (csGet m f), 0, 0⟩, fun _ => rfl⟩

theorem execCsCrc_answersFromRecord : AnswersFromRecord execCsCrc :=
  ⟨fun m => ⟨.ok, zext64 (crc8 m), 0, 0⟩, fun _ => rfl⟩

theorem execCsVal_answersFromRecord : AnswersFromRecord execCsVal :=
  ⟨fun m => ⟨.ok, bitWord 64 (crc8 m == m.read 23), 0, 0⟩, fun _ => rfl⟩

theorem execCsRdb_answersFromRecord (index : BitVec 5) : AnswersFromRecord (execCsRdb index) := by
  by_cases h : index.toNat > 23
  · exact ⟨fun _ => ⟨.operandError, 0, 0, 0⟩, fun s => by rw [execCsRdb, if_pos h]; rfl⟩
  · exact ⟨fun m => ⟨.ok, zext64 (m.read index.toNat), 0, 0⟩, fun s => by rw [execCsRdb, if_neg h]; rfl⟩

theorem exec_answersFromRecord {i : Instr} (hi : readsRecord i = true) : AnswersFromRecord (exec i) := by
  cases i with
  | csRdb index => exact execCsRdb_answersFromRecord index
  | csCrc => exact execCsCrc_answersFromRecord
  | csVal => exact execCsVal_answersFromRecord
  | csGetPro => exact getField_answersFromRecord fieldPro
  | csGetPcm => exact getField_answersFromRecord fieldPcm
  | csGetEmph => exact getField_answersFromRecord fieldEmph
  | csGetLock => exact getField_answersFromRecord fieldLock
  | csGetFs => exact getField_answersFromRecord fieldFs
  | csGetAux => exact getField_answersFromRecord fieldAux
  | csGetWlen => exact getField_answersFromRecord fieldWlen
  | csGetAlign => exact getField_answersFromRecord fieldAlign
  | _ => cases hi

/-! ### Commands that leave the record alone -/

/-- The outcome goes on with the record of `s`. -/
def KeepsRecord (s : State) (o : Host.Outcome State Fault Refusal) : Prop :=
  (nextOf o).map State.csRec = some s.csRec

theorem AnswersFromRecord.keepsRecord {e : State → Host.Outcome State Fault Refusal} (he : AnswersFromRecord e)
    (s : State) : KeepsRecord s (e s) := by
  obtain ⟨f, hf⟩ := he
  rw [hf]
  rfl

theorem execSeCfg_keepsRecord (wl : BitVec 5) (pe : BitVec 3) (av vi : Bool) (s : State) :
    KeepsRecord s (execSeCfg wl pe av vi s) := by
  unfold execSeCfg
  split
  · rfl
  · split <;> rfl

theorem execSeEnc_keepsRecord (x : Sample) (v : Bool) (s : State) : KeepsRecord s (execSeEnc x v s) := by
  unfold execSeEnc
  split <;> rfl

theorem execSeVrange_keepsRecord (x : Sample) (wl : BitVec 5) (s : State) :
    KeepsRecord s (execSeVrange x wl s) := by
  unfold execSeVrange
  split
  · rfl
  · split <;> rfl

theorem execBmcEnc_keepsRecord (bits : BitVec 32) (n : BitVec 6) (prev : Bool) (s : State) :
    KeepsRecord s (execBmcEnc bits n prev s) := by
  unfold execBmcEnc
  split <;> rfl

theorem execBmcDec_keepsRecord (coded : BitVec 64) (n : BitVec 6) (s : State) :
    KeepsRecord s (execBmcDec coded n s) := by
  unfold execBmcDec
  split <;> rfl

/-- `FA.STEP` reads one record bit and keeps the record, refused for channel A, refused for channel B, or not. -/
theorem execFaStep_keepsRecord (xA : Sample) (vA uA : Bool) (xB : Sample) (vB uB : Bool) (s : State) :
    KeepsRecord s (execFaStep xA vA uA xB vB uB s) := by
  unfold execFaStep
  split
  · rfl
  · split <;> rfl

theorem exec_keepsRecord {i : Instr} (hi : writesRecord i = false) (s : State) : KeepsRecord s (exec i s) := by
  cases i with
  | seCfg wl pe av vi => exact execSeCfg_keepsRecord wl pe av vi s
  | seEnc x v => exact execSeEnc_keepsRecord x v s
  | seVrange x wl => exact execSeVrange_keepsRecord x wl s
  | bmcEnc bits n prev => exact execBmcEnc_keepsRecord bits n prev s
  | bmcDec coded n => exact execBmcDec_keepsRecord coded n s
  | faStep xA vA uA xB vB uB => exact execFaStep_keepsRecord xA vA uA xB vB uB s
  | seEnc16 | seEnc24p | seEmarst | seEmard | saCfg | saBuild | sfLine => rfl
  | csRdb | csCrc | csVal | csGetPro | csGetPcm | csGetEmph | csGetLock | csGetFs | csGetAux | csGetWlen
  | csGetAlign => exact (exec_answersFromRecord rfl).keepsRecord s
  | _ => cases hi

theorem csRec_of_nextOf_exec {i : Instr} {s t : State} (hi : writesRecord i = false)
    (h : nextOf (exec i s) = some t) : t.csRec = s.csRec := by
  simpa [KeepsRecord, h] using exec_keepsRecord hi s

/-- Only the commands that write the record change it (`10_state.md` R15). -/
theorem csRec_of_exec {i : Instr} {s t : State} (hi : writesRecord i = false) (h : exec i s = .next t) :
    t.csRec = s.csRec :=
  csRec_of_nextOf_exec hi (congrArg nextOf h)

theorem csRec_of_runInstrs {is : List Instr} {s t : State} (his : ∀ i ∈ is, writesRecord i = false)
    (h : runInstrs is s = some t) : t.csRec = s.csRec := by
  induction is generalizing s with
  | nil => cases h; rfl
  | cons i is ih =>
    obtain ⟨hi, his⟩ := List.forall_mem_cons.1 his
    obtain ⟨u, hu, ht⟩ := Option.bind_eq_some_iff.1 h
    exact (ih his ht).trans (csRec_of_nextOf_exec hi hu)

/-! ### Writes -/

/-- Masking a field out and writing it in twice is doing it once, also for a value that overruns the field. -/
theorem maskedWrite_maskedWrite {w : Nat} (r m y : BitVec w) :
    (r &&& ~~~m ||| y) &&& ~~~m ||| y = r &&& ~~~m ||| y := by
  ext k
  simp only [BitVec.getElem_or, BitVec.getElem_and, BitVec.getElem_not]
  cases r[k] <;> cases m[k] <;> cases y[k] <;> rfl

theorem csSet_csSet_self {m : Memory} (hm : m.wf) {f : FieldPos} (hf : f.byte < 24) (x : BitVec 64) :
    csSet (csSet m f x) f x = csSet m f x := by
  rw [csSet, read_csSet_self hm, maskedWrite_maskedWrite]
  exact Memory.write_write_self hm hf _

theorem setField_idempotent {f : FieldPos} (hf : f.byte < 24) {x : BitVec 64} {s t : State} (hs : s.csRec.wf)
    (h : setField f x s = .next t) : setField f x t = .next t := by
  obtain ⟨hx, hw⟩ | ⟨hx, hw⟩ := setField_cases f x s
  · obtain rfl : _ = t := Host.Outcome.next.inj (hw.symm.trans h)
    simp [setField, Nat.not_le.2 hx, csSet_csSet_self hs hf, respondOk, respond, State.withRsp]
  · obtain rfl : _ = t := Host.Outcome.next.inj (hw.symm.trans h)
    simp [setField, hx, raise, State.withRsp]

theorem execCsWrb_idempotent {index : BitVec 5} {value : Byte} {s t : State} (hs : s.csRec.wf)
    (h : execCsWrb index value s = .next t) : execCsWrb index value t = .next t := by
  unfold execCsWrb at h ⊢
  split at h
  · next hi => obtain rfl := raise_eq_next h; simp [hi, raise, State.withRsp]
  · next hi =>
    have hlt : index.toNat < 24 := by omega
    obtain rfl := respond_eq_next h
    simp [hi, Memory.write_write_self hs hlt, respondOk, respond, State.withRsp]

theorem execCsClr_idempotent {s t : State} (h : execCsClr s = .next t) : execCsClr t = .next t := by
  obtain rfl := respond_eq_next h
  rfl

theorem exec_write_idempotent {i : Instr} {s t : State} (hs : s.csRec.wf) (hi : writesRecord i = true)
    (h : exec i s = .next t) : exec i t = .next t := by
  cases i with
  | csClr => exact execCsClr_idempotent h
  | csWrb => exact execCsWrb_idempotent hs h
  | csSetPro | csSetPcm | csSetEmph | csSetLock | csSetFs | csSetAux | csSetWlen | csSetAlign =>
    exact setField_idempotent (by decide) hs h
  | _ => cases hi

/-! ### R46 -/

/-- A read changes the response alone and answers the same again, at once and after commands that do not write. -/
theorem read_repeats {i : Instr} {s t : State} (hi : readsRecord i = true) (h : exec i s = .next t) :
    t = { s with rsp := t.rsp } ∧ exec i t = .next t ∧
    ∀ (is : List Instr) (u : State), (∀ j ∈ is, writesRecord j = false) → runInstrs is t = some u →
      rspOf (exec i u) = t.rsp := by
  obtain ⟨f, hf⟩ := exec_answersFromRecord hi
  obtain rfl : _ = t := Host.Outcome.next.inj ((hf s).symm.trans h)
  refine ⟨rfl, hf _, fun is u his hu => ?_⟩
  rw [hf u, csRec_of_runInstrs his hu]
  rfl

/-- Settles O43: a read answers from the record alone, `FA.STEP` is one of the commands that keep the record, and each
write is idempotent on a canonical record. -/
theorem readsHaveNoSideEffectWritesAreIdempotent : Obligations.ReadsHaveNoSideEffectWritesAreIdempotent := by
  unfold Obligations.ReadsHaveNoSideEffectWritesAreIdempotent
  exact ⟨fun _ _ _ => read_repeats, fun _ _ _ _ _ _ _ _ => csRec_of_exec rfl, fun _ _ _ => exec_write_idempotent⟩

end Sys2Proof.Proofs
end

section
/-! The opcode and the named bits of a command word: what decides the command, and so the step
(`30_encoding.md` R63 to R65). -/
namespace Sys2Proof.Proofs
open Sys2Proof Sys2Proof.Machine Sys2Proof.Claims

/-! ### The command decides the step -/

theorem decode_of_opcode {cmd : Cmd} {o : Opcode} (h : opcodeOfByte (cmdOp cmd) = some o) :
    decode cmd = some (operandsOf (cmdB cmd) (cmdA cmd) o) := by
  rw [decode, h]
  rfl

theorem step_present_of_decode_none {cmd : Cmd} (h : decode cmd = none) (s : State) :
    step (s.present cmd) = .next (s.withRsp .illegalCommand 0 0 0) := by
  simp [step, portAction, PortIn.command, h, illegalCommand, raise]

theorem step_present_of_decode_some {cmd : Cmd} {i : Instr} (h : decode cmd = some i) (s : State) :
    step (s.present cmd) = exec i s := by
  simp [step, portAction, PortIn.command, h]

/-! ### The undefined opcodes (R65) -/

/-- The rows of R63 and the ranges of R65 share out the 256 bytes. -/
theorem opcodeOfByte_eq_none_iff (op : Byte) : opcodeOfByte op = none ↔ undefinedOpcode op.toNat = true := by
  revert op
  decide +kernel

theorem decode_eq_none_iff (cmd : Cmd) : decode cmd = none ↔ undefinedOpcode (cmdOp cmd).toNat = true := by
  rw [decode, Option.map_eq_none_iff, opcodeOfByte_eq_none_iff]

theorem countP_undefinedOpcode : (List.range 256).countP undefinedOpcode = 222 := by decide +kernel

/-- Settles O3: the byte decides whether the word decodes, and the step answers what does not decode. -/
theorem undefinedOpcodesRaiseIllegalCommand : Obligations.UndefinedOpcodesRaiseIllegalCommand := by
  unfold Obligations.UndefinedOpcodesRaiseIllegalCommand
  exact ⟨decode_eq_none_iff, countP_undefinedOpcode, rfl, rfl,
    fun cmd s h => step_present_of_decode_none ((decode_eq_none_iff cmd).2 h) s⟩

/-! ### The unnamed bits (R64) -/

/-- The masks of B and A in the row of R63 that has the command's opcode. -/
def namedMasks (o : Opcode) : BitVec 24 × BitVec 64 :=
  ((namedBits.find? fun row => row.1 == opcodeByte o).map Prod.snd).getD 0

/-- The rows of the masks are the rows of R63, one for each command. -/
theorem namedBits_eq_map_opcodeTable : namedBits = opcodeTable.map fun row => (row.1, namedMasks row.2) := rfl

theorem opcodeOfByte_of_mem_opcodeTable : ∀ row ∈ opcodeTable, opcodeOfByte row.1 = some row.2 := by decide

theorem exists_opcode_of_mem_namedBits {row : Byte × BitVec 24 × BitVec 64} (h : row ∈ namedBits) :
    ∃ o, opcodeOfByte row.1 = some o ∧ row.2 = namedMasks o := by
  rw [namedBits_eq_map_opcodeTable] at h
  obtain ⟨r, hr, rfl⟩ := List.mem_map.1 h
  exact ⟨r.2, opcodeOfByte_of_mem_opcodeTable r hr, rfl⟩

/-- A field that the mask names whole is cut out of the masked word unchanged. -/
theorem extractLsb'_and_of_named {w : Nat} (x : BitVec w) {m : BitVec w} {lo n : Nat}
    (h : m.extractLsb' lo n = BitVec.allOnes n) : (x &&& m).extractLsb' lo n = x.extractLsb' lo n := by
  rw [BitVec.extractLsb'_and, h, BitVec.and_allOnes]

theorem getLsbD_and_of_named {w : Nat} (x : BitVec w) {m : BitVec w} {k : Nat} (h : m.getLsbD k = true) :
    (x &&& m).getLsbD k = x.getLsbD k := by
  rw [BitVec.getLsbD_and, h, Bool.and_true]

theorem and_of_named {w : Nat} (x : BitVec w) {m : BitVec w} (h : m = BitVec.allOnes w) : x &&& m = x := by
  rw [h, BitVec.and_allOnes]

/-- Clearing the unnamed bits leaves every operand: each is a field or a flag the masks name, all of A, or nothing. -/
theorem operandsOf_and_namedMasks (b : BitVec 24) (a : BitVec 64) (o : Opcode) :
    operandsOf (b &&& (namedMasks o).1) (a &&& (namedMasks o).2) o = operandsOf b a o := by
  cases o with
  | seCfg | seEnc | seEnc16 | seEnc24p | seVrange | csWrb | csRdb | saCfg | saBuild | bmcEnc | faStep =>
    simp (disch := decide) only [operandsOf, extractLsb'_and_of_named, getLsbD_and_of_named]
  | csSetPro | csSetPcm | csSetEmph | csSetLock | csSetFs | csSetAux | csSetWlen | csSetAlign | bmcDec | sfLine =>
    simp (disch := decide) only [operandsOf, extractLsb'_and_of_named, and_of_named]
  | seEmarst | seEmard | csClr | csCrc | csVal | csGetPro | csGetPcm | csGetEmph | csGetLock | csGetFs | csGetAux
  | csGetWlen | csGetAlign => rfl

theorem operandsOf_congr {b b' : BitVec 24} {a a' : BitVec 64} {o : Opcode}
    (hb : b &&& (namedMasks o).1 = b' &&& (namedMasks o).1) (ha : a &&& (namedMasks o).2 = a' &&& (namedMasks o).2) :
    operandsOf b a o = operandsOf b' a' o := by
  rw [← operandsOf_and_namedMasks b, hb, ha, operandsOf_and_namedMasks]

/-- Settles O4: both words decode to the operands of the row's command, which the unnamed bits do not reach. -/
theorem unnamedBitsAreIgnored : Obligations.UnnamedBitsAreIgnored := by
  unfold Obligations.UnnamedBitsAreIgnored
  intro row hrow cmd cmd' hop hop' hb ha
  obtain ⟨o, ho, hm⟩ := exists_opcode_of_mem_namedBits hrow
  rw [hm] at hb ha
  have hd : decode cmd = some (operandsOf (cmdB cmd) (cmdA cmd) o) :=
    decode_of_opcode ((congrArg opcodeOfByte hop).trans ho)
  have hd' : decode cmd' = some (operandsOf (cmdB cmd) (cmdA cmd) o) := by
    rw [decode_of_opcode ((congrArg opcodeOfByte hop').trans ho)]
    exact congrArg some (operandsOf_congr hb ha).symm
  refine ⟨by rw [hd]; rfl, hd.trans hd'.symm, fun s => ?_⟩
  rw [step_present_of_decode_some hd, step_present_of_decode_some hd']

end Sys2Proof.Proofs
end

section
/-! The fields of a command word: an opcode byte names the command, and the operands are bits of the word
(`30_encoding.md` R60, R63). -/
namespace Sys2Proof.Proofs
open Sys2Proof Sys2Proof.Machine

/-- A word with the opcode byte of a command decodes to that command, operands cut from B and A. -/
theorem decode_of_opcodeByte (o : Opcode) {cmd : Cmd} (h : cmd.extractLsb' 88 8 = opcodeByte o) :
    decode cmd = some (operandsOf (cmdB cmd) (cmdA cmd) o) :=
  decode_of_opcode ((congrArg opcodeOfByte h).trans (opcodeOfByte_opcodeByte o))

/-- A field of a field is a field of the word. -/
theorem extractLsb'_extractLsb'_of_le {w : Nat} (x : BitVec w) {start len lo n : Nat} (h : lo + n ≤ len) :
    (x.extractLsb' start len).extractLsb' lo n = x.extractLsb' (start + lo) n := by
  apply BitVec.eq_of_getLsbD_eq
  intro i hi
  have hlt : lo + i < len := by omega
  simp [hi, hlt, Nat.add_assoc]

theorem cmdB_extractLsb' (cmd : Cmd) {lo n : Nat} (h : lo + n ≤ 24) :
    (cmdB cmd).extractLsb' lo n = cmd.extractLsb' (64 + lo) n :=
  extractLsb'_extractLsb'_of_le cmd h

theorem cmdA_extractLsb' (cmd : Cmd) {lo n : Nat} (h : lo + n ≤ 64) :
    (cmdA cmd).extractLsb' lo n = cmd.extractLsb' lo n := by
  rw [cmdA, extractLsb'_extractLsb'_of_le cmd h, Nat.zero_add]

theorem cmdB_getLsbD (cmd : Cmd) {k : Nat} (h : k < 24) : (cmdB cmd).getLsbD k = cmd.getLsbD (64 + k) := by
  rw [cmdB, BitVec.getLsbD_extractLsb', decide_eq_true h, Bool.true_and]

theorem decode_seCfg (cmd : Cmd) (h : cmd.extractLsb' 88 8 = 0x10#8) : decode cmd =
    some (.seCfg (cmd.extractLsb' 64 5) (cmd.extractLsb' 72 3) (cmd.getLsbD 75) (cmd.getLsbD 76)) := by
  simp (disch := decide) only [decode_of_opcodeByte .seCfg h, operandsOf, cmdB_extractLsb', cmdB_getLsbD]

theorem decode_seEnc (cmd : Cmd) (h : cmd.extractLsb' 88 8 = 0x11#8) :
    decode cmd = some (.seEnc (cmd.extractLsb' 0 32) (cmd.getLsbD 64)) := by
  simp (disch := decide) only [decode_of_opcodeByte .seEnc h, operandsOf, cmdA_extractLsb', cmdB_getLsbD]

theorem decode_seEnc16 (cmd : Cmd) (h : cmd.extractLsb' 88 8 = 0x12#8) :
    decode cmd = some (.seEnc16 (cmd.extractLsb' 0 16) (cmd.getLsbD 64)) := by
  simp (disch := decide) only [decode_of_opcodeByte .seEnc16 h, operandsOf, cmdA_extractLsb', cmdB_getLsbD]

theorem decode_seEnc24p (cmd : Cmd) (h : cmd.extractLsb' 88 8 = 0x13#8) : decode cmd = some
    (.seEnc24p (cmd.extractLsb' 0 8) (cmd.extractLsb' 8 8) (cmd.extractLsb' 16 8) (cmd.getLsbD 64)) := by
  simp (disch := decide) only [decode_of_opcodeByte .seEnc24p h, operandsOf, cmdA_extractLsb', cmdB_getLsbD]

theorem decode_seVrange (cmd : Cmd) (h : cmd.extractLsb' 88 8 = 0x14#8) :
    decode cmd = some (.seVrange (cmd.extractLsb' 0 32) (cmd.extractLsb' 64 5)) := by
  simp (disch := decide) only [decode_of_opcodeByte .seVrange h, operandsOf, cmdA_extractLsb', cmdB_extractLsb']

end Sys2Proof.Proofs
end

section
/-! The functions of the Sample Encoder: the range test (`40_sample_encoder.md` R81), justification (R82, R91) and its
inverse (R92). -/
namespace Sys2Proof.Proofs
open Sys2Proof Sys2Proof.Machine Sys2Proof.Claims

/-! ### The range test -/

theorem seInRange_iff_fits (x : Sample) (w : WordLength) : seInRange x w = true ↔ fits w.toNat x :=
  decide_eq_true_iff

/-- A word and its value as a signed number differ by a multiple of `2^w`, for every narrower width too. -/
theorem two_pow_dvd_toInt_sub_toNat {n : Nat} (x : BitVec n) {w : Nat} (hw : w ≤ n) :
    ((2 ^ w : Nat) : Int) ∣ x.toInt - x.toNat := by
  have hdvd : ((2 ^ w : Nat) : Int) ∣ ((2 ^ n : Nat) : Int) := Int.natCast_dvd_natCast.2 (Nat.pow_dvd_pow 2 hw)
  rw [BitVec.toInt_eq_toNat_cond]
  split
  · simp
  · simpa using hdvd

/-- The samples in range are those that the low W bits determine: cut to W bits and sign-extended, they come back. -/
theorem fits_iff_signExtend_setWidth {w : Nat} (h0 : 0 < w) (hw : w ≤ 32) (x : Sample) :
    fits w x ↔ (x.setWidth w).signExtend 32 = x := by
  obtain ⟨k, rfl⟩ := Nat.exists_eq_succ_of_ne_zero h0.ne'
  have hpos : 0 < 2 ^ (k + 1) := Nat.two_pow_pos _
  have hdvd := two_pow_dvd_toInt_sub_toNat x hw
  rw [← BitVec.toInt_inj, BitVec.toInt_signExtend_of_le hw, BitVec.toInt_setWidth, Int.bmod_eq_iff hpos]
  simp only [fits, hdvd, and_true]
  push_cast
  rw [pow_succ]
  omega

/-- A cut and sign-extended sample has the low bits of the sample below W and copies of bit W−1 from there on. -/
theorem signExtend_setWidth_eq_self_iff {w : Nat} (h0 : 0 < w) (x : Sample) :
    (x.setWidth w).signExtend 32 = x ↔ ∀ i, w - 1 ≤ i → i < 32 → x.getLsbD i = x.getLsbD (w - 1) := by
  have hmsb : (x.setWidth w).msb = x.getLsbD (w - 1) := by
    rw [BitVec.msb_setWidth, decide_eq_true h0, Bool.true_and]
  have hbit (i : Nat) (hi : i < 32) : ((x.setWidth w).signExtend 32).getLsbD i =
      if i < w then x.getLsbD i else x.getLsbD (w - 1) := by
    rw [BitVec.getLsbD_signExtend, hmsb, decide_eq_true hi, Bool.true_and]
    split
    · next hlt => rw [BitVec.getLsbD_setWidth, decide_eq_true hlt, Bool.true_and]
    · rfl
  constructor
  · intro h i hwi hi
    obtain rfl | hwi := hwi.eq_or_lt
    · rfl
    · rw [← if_neg (c := i < w) (t := x.getLsbD i) (e := x.getLsbD (w - 1)) (by omega), ← hbit i hi, h]
  · intro h
    apply BitVec.eq_of_getLsbD_eq
    intro i hi
    rw [hbit i hi]
    split
    · rfl
    · exact (h i (by omega) hi).symm

/-- Settles O10: the samples in range are those unchanged by cutting to W bits and sign-extending, which says bit by bit
that the top bits are equal. -/
theorem rangeTestIsEqualTopBits : Obligations.RangeTestIsEqualTopBits := by
  unfold Obligations.RangeTestIsEqualTopBits
  intro x w
  obtain ⟨h20, h24⟩ := w.toNat_bounds
  refine ⟨seInRange_iff_fits x w, ?_⟩
  rw [seInRange_iff_fits, fits_iff_signExtend_setWidth (by omega) (by omega),
    signExtend_setWidth_eq_self_iff (by omega)]
  constructor
  · intro h i hwi hi
    exact (h i hwi hi).trans (h 31 (by omega) (by omega)).symm
  · intro h i hwi hi
    exact (h i hwi hi).trans (h (w.toNat - 1) le_rfl (by omega)).symm

/-! ### Justification -/

theorem seJustifyAudio_getLsbD (x : Sample) (w : WordLength) {i : Nat} (hi : i < 24) :
    (seJustifyAudio x w).getLsbD i = if i < 24 - w.toNat then false else x.getLsbD (i - (24 - w.toNat)) := by
  rw [seJustifyAudio, vacated, BitVec.getLsbD_shiftLeft, BitVec.getLsbD_extractLsb', Nat.zero_add]
  have hlt : i - (24 - w.toNat) < 24 := by omega
  split <;> simp_all

theorem seJustifyAux_eq (x : Sample) (w : WordLength) :
    seJustifyAux x w = BitVec.ofNat 4 (x.toNat % 2 ^ (24 - w.toNat)) := by
  have hdvd : 2 ^ (24 - w.toNat) ∣ 2 ^ 24 := Nat.pow_dvd_pow 2 (by omega)
  rw [seJustifyAux, vacated, BitVec.extractLsb'_toNat, Nat.shiftRight_zero, Nat.mod_mod_of_dvd _ hdvd]

theorem seJustifyAux_getLsbD (x : Sample) (w : WordLength) {i : Nat} (hi : i < 4) :
    (seJustifyAux x w).getLsbD i = if i < 24 - w.toNat then x.getLsbD i else false := by
  rw [seJustifyAux_eq, BitVec.getLsbD_ofNat, Nat.testBit_mod_two_pow, decide_eq_true hi, Bool.true_and,
    BitVec.testBit_toNat]
  split <;> simp_all

/-- Settles O11: the audio word is a shift and the auxiliary field a remainder by a power of two, read bit by bit. -/
theorem justifiedBitsAreTheSampleBits : Obligations.JustifiedBitsAreTheSampleBits := by
  unfold Obligations.JustifiedBitsAreTheSampleBits
  exact fun x w => ⟨fun _ => seJustifyAudio_getLsbD x w, fun _ => seJustifyAux_getLsbD x w⟩

/-! ### Inverse justification -/

/-- Shifting an audio word right arithmetically by `k` leaves its top bits, sign-extended (R92). -/
theorem seUnjustify_eq_signExtend (aw : AudioWord) (w : WordLength) :
    seUnjustify aw w = (aw.extractLsb' (24 - w.toNat) w.toNat).signExtend 32 := by
  obtain ⟨h20, h24⟩ := w.toNat_bounds
  have hmsb : (aw.extractLsb' (24 - w.toNat) w.toNat).msb = aw.msb := by
    rw [BitVec.msb_eq_getLsbD_last, BitVec.getLsbD_extractLsb', BitVec.msb_eq_getLsbD_last,
      decide_eq_true (by omega), Bool.true_and, show 24 - w.toNat + (w.toNat - 1) = 24 - 1 by omega]
  apply BitVec.eq_of_getLsbD_eq
  intro i hi
  rw [seUnjustify, vacated, BitVec.getLsbD_signExtend, BitVec.getLsbD_signExtend, hmsb, BitVec.msb_sshiftRight,
    BitVec.getLsbD_sshiftRight, BitVec.getLsbD_extractLsb']
  by_cases hiw : i < w.toNat
  · have hi24 : i < 24 := by omega
    have hin : 24 - w.toNat + i < 24 := by omega
    simp [hiw, hi24, hin, Nat.not_le.2 hi24]
  · have hout : ¬ 24 - w.toNat + i < 24 := by omega
    simp only [hiw, hout, if_false]
    split
    · next hi24 => simp [Nat.not_le.2 hi24]
    · rfl

/-- The top W bits of a justified audio word are the low W bits of the sample. -/
theorem extractLsb'_seJustifyAudio (x : Sample) (w : WordLength) :
    (seJustifyAudio x w).extractLsb' (24 - w.toNat) w.toNat = x.setWidth w.toNat := by
  obtain ⟨h20, h24⟩ := w.toNat_bounds
  apply BitVec.eq_of_getLsbD_eq
  intro i hi
  rw [BitVec.getLsbD_extractLsb', seJustifyAudio_getLsbD x w (by omega), if_neg (by omega),
    BitVec.getLsbD_setWidth, Nat.add_sub_cancel_left]

/-- Settles O12: the round trip cuts the sample to W bits and sign-extends it, which gives back the samples in range. -/
theorem justificationRoundTrip : Obligations.JustificationRoundTrip := by
  unfold Obligations.JustificationRoundTrip
  intro x w
  obtain ⟨h20, h24⟩ := w.toNat_bounds
  refine ⟨fun aw => seUnjustify_eq_signExtend aw w, ?_⟩
  rw [seUnjustify_eq_signExtend, extractLsb'_seJustifyAudio,
    fits_iff_signExtend_setWidth (by omega) (by omega)]

end Sys2Proof.Proofs
end

section
/-! The commands of the Sample Encoder: the configuration (`40_sample_encoder.md` R80), the three encodes (R85 to R87)
and the explicit range test (R88). -/
namespace Sys2Proof.Proofs
open Sys2Proof Sys2Proof.Machine Sys2Proof.Claims

/-! ### `SE.CFG` -/

theorem exists_wordLengthOfCode {wl : BitVec 5} (h : 20 ≤ wl.toNat ∧ wl.toNat ≤ 24) :
    ∃ w, wordLengthOfCode wl = some w :=
  Option.ne_none_iff_exists'.1 fun hn => by
    have := wordLengthOfCode_eq_none.1 hn
    omega

theorem code_of_wordLengthOfCode {wl : BitVec 5} {w : WordLength} (h : wordLengthOfCode wl = some w) :
    w.code = wl := by
  rw [WordLength.code, ← wordLengthOfCode_eq_some.1 h, BitVec.ofNat_toNat, BitVec.setWidth_eq]

theorem execSeCfg_of_supported {wl : BitVec 5} {w : WordLength} {pe : BitVec 3} {s : State}
    (hw : wordLengthOfCode wl = some w) (hpe : pe ∈ s.params.preemphSupported) (av vi : Bool) :
    execSeCfg wl pe av vi s =
      .next ({ s with seCfg := { wl := w, pe := pe, av := av, vi := vi } }.withRsp .ok 0 0 0) := by
  simp [execSeCfg, hw, hpe, respondOk, respond]

/-- Whichever of the two tests fails, the answer is the same. -/
theorem execSeCfg_of_refused {wl : BitVec 5} {pe : BitVec 3} {s : State}
    (h : wordLengthOfCode wl = none ∨ pe ∉ s.params.preemphSupported) (av vi : Bool) :
    execSeCfg wl pe av vi s = .next (s.withRsp .configError 0 0 0) := by
  unfold execSeCfg
  split
  · rfl
  · next w hw =>
    have hpe : pe ∉ s.params.preemphSupported := h.resolve_left (by simp [hw])
    simp [hpe, raise]

/-- Settles O5: the word length code selects a word length or none, and the pre-emphasis code is supported or not. -/
theorem seCfgReplacesTheWholeConfiguration : Obligations.SeCfgReplacesTheWholeConfiguration := by
  unfold Obligations.SeCfgReplacesTheWholeConfiguration
  refine ⟨decode_seCfg, fun wl pe av vi s => ⟨fun hwl hpe => ?_, fun h => ?_⟩⟩
  · obtain ⟨w, hw⟩ := exists_wordLengthOfCode hwl
    exact ⟨w, (wordLengthOfCode_eq_some.1 hw).symm, code_of_wordLengthOfCode hw, execSeCfg_of_supported hw hpe av vi⟩
  · exact execSeCfg_of_refused (by rwa [wordLengthOfCode_eq_none, or_assoc]) av vi

/-! ### The result words as numbers -/

/-- Words that do not overlap are put together by addition. -/
theorem toNat_or_shiftLeft {w k : Nat} {x y : BitVec w} (hx : x.toNat < 2 ^ k) (hy : y.toNat * 2 ^ k < 2 ^ w) :
    (x ||| y <<< k).toNat = x.toNat + 2 ^ k * y.toNat := by
  rw [BitVec.toNat_or, BitVec.toNat_shiftLeft, Nat.shiftLeft_eq, Nat.mod_eq_of_lt hy, Nat.mul_comm, Nat.or_comm,
    ← Nat.two_pow_add_eq_or_of_lt hx, Nat.add_comm]

/-- R85: the validity bit stands above the audio word. -/
theorem encodedWord_not_eq_ofNat (isValid : Bool) (aw : AudioWord) :
    encodedWord (!isValid) aw = BitVec.ofNat 64 ((if isValid then 0 else 2 ^ 24) + aw.toNat) := by
  apply BitVec.eq_of_toNat_eq
  have haw := aw.isLt
  have hlow : (zext64 aw).toNat = aw.toNat := by
    rw [zext64, BitVec.toNat_setWidth]
    omega
  rw [encodedWord, toNat_or_shiftLeft (by omega) (by cases isValid <;> decide), hlow]
  cases isValid <;> simp [bitWord] <;> omega

theorem seJustifyAudio_toNat (x : Sample) (w : WordLength) : (seJustifyAudio x w).toNat = audioNat w.toNat x := by
  rw [seJustifyAudio, vacated, BitVec.toNat_shiftLeft, Nat.shiftLeft_eq, BitVec.extractLsb'_toNat,
    Nat.shiftRight_zero, audioNat]

/-- R82: the auxiliary field has room for the `k` low bits, since `k` is at most 4. -/
theorem zext64_seJustifyAux (x : Sample) (w : WordLength) :
    zext64 (seJustifyAux x w) = BitVec.ofNat 64 (x.toNat % 2 ^ (24 - w.toNat)) := by
  have hroom : 2 ^ (24 - w.toNat) ∣ 2 ^ 4 := Nat.pow_dvd_pow 2 (by have := w.toNat_bounds; omega)
  have hlt : x.toNat % 2 ^ (24 - w.toNat) < 2 ^ 4 :=
    (Nat.mod_lt _ (Nat.two_pow_pos _)).trans_le (Nat.le_of_dvd (by decide) hroom)
  apply BitVec.eq_of_toNat_eq
  rw [zext64, seJustifyAux_eq, BitVec.toNat_setWidth, BitVec.toNat_ofNat, BitVec.toNat_ofNat, Nat.mod_eq_of_lt hlt]

/-- R86: sixteen bits shifted up by a byte. -/
theorem toNat_setWidth_shiftLeft_byte (x : BitVec 16) : (x.setWidth 24 <<< 8).toNat = 256 * x.toNat := by
  have hx := x.isLt
  rw [BitVec.toNat_shiftLeft, Nat.shiftLeft_eq, BitVec.toNat_setWidth]
  omega

/-- R87: the first byte of the buffer is the least significant (`20_memory.md` R45). -/
theorem packedBytes_toNat (b0 b1 b2 : Byte) :
    (packedBytes b0 b1 b2).toNat = b0.toNat + 256 * b1.toNat + 65536 * b2.toNat := by
  have h0 := b0.isLt
  have h1 := b1.isLt
  have h2 := b2.isLt
  have hwide (b : Byte) : (b.setWidth 24).toNat = b.toNat := by
    rw [BitVec.toNat_setWidth]
    have := b.isLt
    omega
  have hlow : (b0.setWidth 24 ||| b1.setWidth 24 <<< 8).toNat = b0.toNat + 2 ^ 8 * b1.toNat := by
    rw [toNat_or_shiftLeft (by rw [hwide]; omega) (by rw [hwide]; omega), hwide, hwide]
  rw [packedBytes, toNat_or_shiftLeft (by omega) (by rw [hwide]; omega), hlow, hwide]
  norm_num

/-! ### The encodes -/

theorem accepted_iff (cfg : SeCfg) (x : Sample) : accepted cfg x ↔ cfg.vi = false ∨ seInRange x cfg.wl = true := by
  rw [seInRange_iff_fits]

theorem seEncode_of_accepted {cfg : SeCfg} {x : Sample} (h : accepted cfg x) (isValid : Bool) :
    seEncode cfg x isValid = some ⟨seJustifyAudio x cfg.wl, !isValid, seJustifyAux x cfg.wl⟩ := by
  obtain ⟨hvi, hrange, -⟩ | ⟨-, henc⟩ := seEncode_cases cfg x isValid
  · exact absurd ((accepted_iff cfg x).1 h) (by simp [hvi, hrange])
  · exact henc

theorem seEncode_of_not_accepted {cfg : SeCfg} {x : Sample} (h : ¬ accepted cfg x) (isValid : Bool) :
    seEncode cfg x isValid = none := by
  obtain ⟨-, -, henc⟩ | ⟨hacc, -⟩ := seEncode_cases cfg x isValid
  · exact henc
  · exact absurd ((accepted_iff cfg x).2 hacc) h

theorem execSeEnc_of_accepted {x : Sample} {s : State} (h : accepted s.seCfg x) (isValid : Bool) :
    execSeEnc x isValid s = .next ((s.emaUpdated x.toInt).withRsp .ok
      (encodedWord (!isValid) (seJustifyAudio x s.seCfg.wl)) (zext64 (seJustifyAux x s.seCfg.wl)) 0) := by
  rw [execSeEnc, seEncode_of_accepted h]
  rfl

theorem execSeEnc_of_not_accepted {x : Sample} {s : State} (h : ¬ accepted s.seCfg x) (isValid : Bool) :
    execSeEnc x isValid s = .next (s.withRsp .rangeError 0 0 0) := by
  rw [execSeEnc, seEncode_of_not_accepted h]
  rfl

/-- Settles O6: the encode function accepts or refuses, and the two result words are the numbers of R85. -/
theorem seEncEncodesOrRefusesTheSample : Obligations.SeEncEncodesOrRefusesTheSample := by
  unfold Obligations.SeEncEncodesOrRefusesTheSample
  refine ⟨decode_seEnc, fun x isValid s => ⟨fun h => ?_, fun h => execSeEnc_of_not_accepted h isValid⟩⟩
  rw [← seJustifyAudio_toNat, ← encodedWord_not_eq_ofNat, ← zext64_seJustifyAux]
  exact execSeEnc_of_accepted h isValid

/-- Settles O7: neither path reads the configuration; the audio words are the numbers of R86 and R87. -/
theorem fastPathsIgnoreTheConfiguration : Obligations.FastPathsIgnoreTheConfiguration := by
  unfold Obligations.FastPathsIgnoreTheConfiguration
  refine ⟨decode_seEnc16, decode_seEnc24p, fun x isValid s => ?_, fun b0 b1 b2 isValid s => ?_⟩
  · rw [← toNat_setWidth_shiftLeft_byte, ← encodedWord_not_eq_ofNat]
    rfl
  · intro n
    have hn : (packedBytes b0 b1 b2).toNat = n := packedBytes_toNat b0 b1 b2
    rw [← hn, BitVec.ofNat_toNat, BitVec.setWidth_eq, ← encodedWord_not_eq_ofNat]
    rfl

/-! ### `SE.VRANGE` -/

theorem execSeVrange_of_no_wordLength {wl : BitVec 5} (h : wordLengthOfCode wl = none) (x : Sample) (s : State) :
    execSeVrange x wl s = .next (s.withRsp .configError 0 0 0) := by
  rw [execSeVrange, h]
  rfl

theorem execSeVrange_of_wordLength {wl : BitVec 5} (h : 20 ≤ wl.toNat ∧ wl.toNat ≤ 24) (x : Sample) (s : State) :
    execSeVrange x wl s = .next (s.withRsp (if fits wl.toNat x then .ok else .rangeError) 0 0 0) := by
  obtain ⟨w, hw⟩ := exists_wordLengthOfCode h
  rw [execSeVrange, hw, wordLengthOfCode_eq_some.1 hw]
  simp only [seInRange_iff_fits]
  split <;> rfl

/-- Settles O8: the code selects no word length, or one whose range test is `fits`. -/
theorem seVrangeTestsWordLengthThenSample : Obligations.SeVrangeTestsWordLengthThenSample := by
  unfold Obligations.SeVrangeTestsWordLengthThenSample
  refine ⟨decode_seVrange, fun x wl s => ⟨fun h => ?_, fun h hx => ?_, fun h hx => ?_⟩⟩
  · exact execSeVrange_of_no_wordLength (wordLengthOfCode_eq_none.2 h) x s
  · exact (execSeVrange_of_wordLength h x s).trans (by rw [if_neg hx])
  · exact (execSeVrange_of_wordLength h x s).trans (by rw [if_pos hx])

end Sys2Proof.Proofs
end

section
/-! What `FA.STEP` can answer (`44_frame_block.md` R180). -/
namespace Sys2Proof.Proofs
open Sys2Proof Sys2Proof.Machine

/-- The state after a successful `FA.STEP`, but for the response: two averages and the counter's advance. -/
def frameBuilt (xA xB : Sample) (s : State) : State :=
  { (s.emaUpdated xA.toInt).emaUpdated xB.toInt with faFrame := nextFrame s.faFrame }

theorem execFaStep_of_refused_a {xA : Sample} {vA : Bool} {s : State} (hA : seEncode s.seCfg xA vA = none)
    {uA : Bool} {xB : Sample} {vB uB : Bool} :
    execFaStep xA vA uA xB vB uB s = raise s .rangeError (channelFlag .a) := by
  rw [execFaStep, hA]

theorem execFaStep_of_refused_b {xA xB : Sample} {vA vB : Bool} {s : State} {eA : Encoded}
    (hA : seEncode s.seCfg xA vA = some eA) (hB : seEncode s.seCfg xB vB = none) {uA uB : Bool} :
    execFaStep xA vA uA xB vB uB s = raise s .rangeError (channelFlag .b) := by
  rw [execFaStep, hA, hB]

theorem execFaStep_of_encoded {xA xB : Sample} {vA vB : Bool} {s : State} {eA eB : Encoded}
    (hA : seEncode s.seCfg xA vA = some eA) (hB : seEncode s.seCfg xB vB = some eB) {uA uB : Bool} :
    execFaStep xA vA uA xB vB uB s = respond (frameBuilt xA xB s)
      (frameSubframe s eA uA .a) (frameSubframe s eB uB .b) (frameFlags s.faFrame) := by
  rw [execFaStep, hA, hB]
  rfl

end Sys2Proof.Proofs
end

section
/-! `AV` and `PE` have no effect on any output (`40_sample_encoder.md` R84). -/
namespace Sys2Proof.Proofs
open Sys2Proof Sys2Proof.Machine Sys2Proof.Claims

/-! ### Commands and the two inert fields -/

/-- The state with other values in the two inert fields of `SE_CFG`. -/
def withInert (pe : BitVec 3) (av : Bool) (s : State) : State :=
  { s with seCfg := { s.seCfg with pe := pe, av := av } }

/-- The outcome with its next state changed by `f`. -/
def mapNext (f : State → State) : Host.Outcome State Fault Refusal → Host.Outcome State Fault Refusal
  | .next t => .next (f t)
  | .fault r => .fault r
  | .refused r => .refused r

/-- The meaning neither reads nor writes the two fields: changing them before it is changing them after it. -/
def IgnoresInert (e : State → Host.Outcome State Fault Refusal) : Prop :=
  ∀ pe av s, e (withInert pe av s) = mapNext (withInert pe av) (e s)

@[simp] theorem withInert_faFrame (pe : BitVec 3) (av : Bool) (s : State) :
    (withInert pe av s).faFrame = s.faFrame := rfl

theorem respond_withInert (pe : BitVec 3) (av : Bool) (s : State) (r0 r1 : BitVec 64) (rf : BitVec 16) :
    respond (withInert pe av s) r0 r1 rf = mapNext (withInert pe av) (respond s r0 r1 rf) := rfl

theorem AnswersFromRecord.ignoresInert {e : State → Host.Outcome State Fault Refusal} (he : AnswersFromRecord e) :
    IgnoresInert e := by
  obtain ⟨f, hf⟩ := he
  intro pe av s
  rw [hf, hf]
  rfl

theorem execCsWrb_ignoresInert (index : BitVec 5) (value : Byte) : IgnoresInert (execCsWrb index value) := by
  intro pe av s
  unfold execCsWrb
  split <;> rfl

theorem setField_ignoresInert (f : FieldPos) (x : BitVec 64) : IgnoresInert (setField f x) := by
  intro pe av s
  unfold setField
  split <;> rfl

theorem execBmcEnc_ignoresInert (bits : BitVec 32) (n : BitVec 6) (prev : Bool) :
    IgnoresInert (execBmcEnc bits n prev) := by
  intro pe av s
  unfold execBmcEnc
  split <;> rfl

theorem execBmcDec_ignoresInert (coded : BitVec 64) (n : BitVec 6) : IgnoresInert (execBmcDec coded n) := by
  intro pe av s
  unfold execBmcDec
  split <;> rfl

theorem execSeVrange_ignoresInert (x : Sample) (wl : BitVec 5) : IgnoresInert (execSeVrange x wl) := by
  intro pe av s
  unfold execSeVrange
  split
  · rfl
  · split <;> rfl

/-- R83 reads `WL` and `VI` of the configuration only. -/
theorem seEncode_congr {cfg cfg' : SeCfg} (hwl : cfg.wl = cfg'.wl) (hvi : cfg.vi = cfg'.vi) (x : Sample) (v : Bool) :
    seEncode cfg x v = seEncode cfg' x v := by
  rw [seEncode, seEncode, hwl, hvi]

theorem seEncode_withInert (pe : BitVec 3) (av : Bool) (s : State) (x : Sample) (v : Bool) :
    seEncode (withInert pe av s).seCfg x v = seEncode s.seCfg x v :=
  seEncode_congr rfl rfl x v

theorem execSeEnc_ignoresInert (x : Sample) (v : Bool) : IgnoresInert (execSeEnc x v) := by
  intro pe av s
  rw [execSeEnc, execSeEnc, seEncode_withInert]
  cases seEncode s.seCfg x v with
  | none => rfl
  | some e => rfl

theorem frameSubframe_withInert (pe : BitVec 3) (av : Bool) (s : State) (e : Encoded) (user : Bool) (ch : Channel) :
    frameSubframe (withInert pe av s) e user ch = frameSubframe s e user ch := rfl

theorem frameBuilt_withInert (pe : BitVec 3) (av : Bool) (s : State) (xA xB : Sample) :
    frameBuilt xA xB (withInert pe av s) = withInert pe av (frameBuilt xA xB s) := by
  simp only [frameBuilt, withInert, State.emaUpdated]

theorem execFaStep_ignoresInert (xA : Sample) (vA uA : Bool) (xB : Sample) (vB uB : Bool) :
    IgnoresInert (execFaStep xA vA uA xB vB uB) := by
  intro pe av s
  have hencA := seEncode_withInert pe av s xA vA
  have hencB := seEncode_withInert pe av s xB vB
  cases hA : seEncode s.seCfg xA vA with
  | none =>
    rw [execFaStep_of_refused_a hA, execFaStep_of_refused_a (hencA.trans hA)]
    rfl
  | some eA =>
    cases hB : seEncode s.seCfg xB vB with
    | none =>
      rw [execFaStep_of_refused_b hA hB, execFaStep_of_refused_b (hencA.trans hA) (hencB.trans hB)]
      rfl
    | some eB =>
      rw [execFaStep_of_encoded hA hB, execFaStep_of_encoded (hencA.trans hA) (hencB.trans hB), frameBuilt_withInert,
        respond_withInert, frameSubframe_withInert, frameSubframe_withInert, withInert_faFrame]

/-- Every command but `SE.CFG`, which writes the two fields, ignores them. -/
theorem exec_ignoresInert {i : Instr} (hi : ∀ wl pe av vi, i ≠ .seCfg wl pe av vi) : IgnoresInert (exec i) := by
  cases i with
  | seCfg wl pe av vi => exact absurd rfl (hi wl pe av vi)
  | seEnc x v => exact execSeEnc_ignoresInert x v
  | seVrange x wl => exact execSeVrange_ignoresInert x wl
  | csWrb index value => exact execCsWrb_ignoresInert index value
  | bmcEnc bits n prev => exact execBmcEnc_ignoresInert bits n prev
  | bmcDec coded n => exact execBmcDec_ignoresInert coded n
  | faStep xA vA uA xB vB uB => exact execFaStep_ignoresInert xA vA uA xB vB uB
  | csSetPro | csSetPcm | csSetEmph | csSetLock | csSetFs | csSetAux | csSetWlen | csSetAlign =>
    exact setField_ignoresInert _ _
  | csRdb | csCrc | csVal | csGetPro | csGetPcm | csGetEmph | csGetLock | csGetFs | csGetAux | csGetWlen
  | csGetAlign => exact (exec_answersFromRecord rfl).ignoresInert
  | seEnc16 | seEnc24p | seEmarst | seEmard | csClr | saCfg | saBuild | sfLine => exact fun _ _ _ => rfl

/-- `SE.CFG` writes the two fields whatever they held, or leaves them as they are. -/
theorem execSeCfg_withInert (wl : BitVec 5) (pe' : BitVec 3) (av' vi : Bool) (pe : BitVec 3) (av : Bool) (s : State) :
    execSeCfg wl pe' av' vi (withInert pe av s) = execSeCfg wl pe' av' vi s ∨
    execSeCfg wl pe' av' vi (withInert pe av s) = mapNext (withInert pe av) (execSeCfg wl pe' av' vi s) := by
  unfold execSeCfg
  split
  · exact .inr rfl
  · rw [show (withInert pe av s).params = s.params from rfl]
    split
    · exact .inl rfl
    · exact .inr rfl

/-- With other values in the two fields a command goes on to the same state, or to the same state but for them. -/
theorem exec_withInert {i : Instr} {s t : State} (h : exec i s = .next t) (pe : BitVec 3) (av : Bool) :
    exec i (withInert pe av s) = .next t ∨ exec i (withInert pe av s) = .next (withInert pe av t) := by
  cases i with
  | seCfg wl pe' av' vi =>
    obtain hsame | hmap := execSeCfg_withInert wl pe' av' vi pe av s
    · exact .inl (hsame.trans h)
    · exact .inr (hmap.trans (congrArg (mapNext (withInert pe av)) h))
  | _ => exact .inr ((exec_ignoresInert (by simp) pe av s).trans (congrArg (mapNext (withInert pe av)) h))

/-! ### The validity output -/

theorem encodedWord_getLsbD_24 (v : Bool) (aw : AudioWord) : (encodedWord v aw).getLsbD 24 = v := by
  have hlow : (zext64 aw).getLsbD 24 = false := by
    rw [zext64, BitVec.getLsbD_setWidth, BitVec.getLsbD_of_ge aw 24 le_rfl, Bool.and_false]
  rw [encodedWord, BitVec.getLsbD_or, hlow]
  cases v <;> rfl

theorem validity_of_seEncode {cfg : SeCfg} {x : Sample} {v : Bool} {e : Encoded} (h : seEncode cfg x v = some e) :
    e.v = !v := by
  obtain ⟨-, -, hn⟩ | ⟨-, hs⟩ := seEncode_cases cfg x v
  · cases hn.symm.trans h
  · obtain rfl := Option.some.inj (hs.symm.trans h)
    rfl

/-- The logical bit of a data slot of an assembled subframe (`42_subframe_assembler.md` R141, R143). -/
theorem lbit_sfBuild (aw : AudioWord) (v u c : Bool) (pre : Byte) (ap : Bool) {n : Nat} (h : n < 28) :
    lbit (sfBuild aw v u c pre ap) (n + 4) = ((slotBits aw v u c ap)[n]?).getD false := by
  have hlt : 2 * (n + 4) < 64 := by omega
  have hpast : (bitList pre).length ≤ 2 * (n + 4) := by rw [bitList_length]; omega
  rw [lbit, sfBuild, packBits_getLsbD, decide_eq_true hlt, Bool.true_and, List.getElem?_append_right hpast,
    bitList_length, show 2 * (n + 4) - 8 = 2 * n by omega, doubled_getElem?_even]

/-- Slot 28 carries the validity bit. -/
theorem lbit_sfBuild_28 (aw : AudioWord) (v u c : Bool) (pre : Byte) (ap : Bool) :
    lbit (sfBuild aw v u c pre ap) 28 = v := by
  rw [lbit_sfBuild aw v u c pre ap (n := 24) (by decide), slotBits,
    List.getElem?_append_right (by simp), List.length_reverse, bitList_length]
  rfl

theorem validity_of_execSeEnc {x : Sample} {v : Bool} {s t : State} {r : Response} (h : execSeEnc x v s = .next t)
    (hr : t.rsp = some r) (hok : r.st = .ok) : r.r0.getLsbD 24 = !v := by
  by_cases hacc : accepted s.seCfg x
  · obtain rfl : _ = t := Host.Outcome.next.inj ((execSeEnc_of_accepted hacc v).symm.trans h)
    obtain rfl : _ = r := Option.some.inj hr
    exact encodedWord_getLsbD_24 _ _
  · obtain rfl : _ = t := Host.Outcome.next.inj ((execSeEnc_of_not_accepted hacc v).symm.trans h)
    obtain rfl : _ = r := Option.some.inj hr
    cases hok

/-- A fast path drives the validity bit of the encoded word it responds with. -/
theorem validity_of_respond_encodedWord {v : Bool} {aw : AudioWord} {s t : State} {r : Response}
    (h : respond s (encodedWord v aw) 0 0 = .next t) (hr : t.rsp = some r) : r.r0.getLsbD 24 = v := by
  obtain rfl := respond_eq_next h
  obtain rfl : _ = r := Option.some.inj hr
  exact encodedWord_getLsbD_24 v aw

theorem validity_of_execFaStep {xA : Sample} {vA uA : Bool} {xB : Sample} {vB uB : Bool} {s t : State} {r : Response}
    (h : execFaStep xA vA uA xB vB uB s = .next t) (hr : t.rsp = some r) (hok : r.st = .ok) :
    lbit r.r0 28 = !vA ∧ lbit r.r1 28 = !vB := by
  cases hA : seEncode s.seCfg xA vA with
  | none =>
    obtain rfl := raise_eq_next ((execFaStep_of_refused_a hA).symm.trans h)
    obtain rfl : _ = r := Option.some.inj hr
    cases hok
  | some eA =>
    cases hB : seEncode s.seCfg xB vB with
    | none =>
      obtain rfl := raise_eq_next ((execFaStep_of_refused_b hA hB).symm.trans h)
      obtain rfl : _ = r := Option.some.inj hr
      cases hok
    | some eB =>
      obtain rfl := respond_eq_next ((execFaStep_of_encoded hA hB).symm.trans h)
      obtain rfl : _ = r := Option.some.inj hr
      rw [← validity_of_seEncode hA, ← validity_of_seEncode hB]
      exact ⟨lbit_sfBuild_28 .., lbit_sfBuild_28 ..⟩

/-- Settles O45: the two states that a command goes on to agree but for the two fields, and in every encode the validity
output is the negated operand. -/
theorem autoValidityAndPreEmphasisAreInert : Obligations.AutoValidityAndPreEmphasisAreInert := by
  unfold Obligations.AutoValidityAndPreEmphasisAreInert
  refine ⟨fun i s t pe av h => ?_, fun _ _ _ _ _ => validity_of_execSeEnc,
    fun _ _ _ _ _ => validity_of_respond_encodedWord, fun _ _ _ _ _ _ _ => validity_of_respond_encodedWord,
    fun _ _ _ _ _ _ _ _ _ => validity_of_execFaStep⟩
  obtain h' | h' := exec_withInert h pe av
  all_goals exact ⟨_, h', rfl, rfl, rfl, rfl, rfl, rfl, rfl⟩

end Sys2Proof.Proofs
end

section
/-! The whole-byte commands of the record, `CS.WRB` and `CS.RDB` (`41_channel_status.md` R110, R111). -/
namespace Sys2Proof.Proofs
open Sys2Proof Sys2Proof.Machine

theorem decode_csWrb (cmd : Cmd) (h : cmd.extractLsb' 88 8 = 0x21#8) :
    decode cmd = some (.csWrb (cmd.extractLsb' 64 5) (cmd.extractLsb' 0 8)) := by
  simp (disch := decide) only [decode_of_opcodeByte .csWrb h, operandsOf, cmdA_extractLsb', cmdB_extractLsb']

theorem decode_csRdb (cmd : Cmd) (h : cmd.extractLsb' 88 8 = 0x22#8) :
    decode cmd = some (.csRdb (cmd.extractLsb' 64 5)) := by
  simp (disch := decide) only [decode_of_opcodeByte .csRdb h, operandsOf, cmdB_extractLsb']

/-- A word extended by zeros is the word with the same number. -/
theorem zext64_eq_ofNat {w : Nat} (v : BitVec w) : zext64 v = BitVec.ofNat 64 v.toNat := (BitVec.ofNat_toNat 64 v).symm

theorem exec_csWrb_of_le {index : BitVec 5} (h : index.toNat ≤ 23) (value : Byte) (s : State) :
    exec (.csWrb index value) s =
      .next (({ s with csRec := s.csRec.write index.toNat value } : State).withRsp .ok 0 0 0) :=
  if_neg (Nat.not_lt.2 h)

theorem exec_csWrb_of_lt {index : BitVec 5} (h : 23 < index.toNat) (value : Byte) (s : State) :
    exec (.csWrb index value) s = .next (s.withRsp .operandError 0 0 0) :=
  if_pos h

theorem exec_csRdb_of_le {index : BitVec 5} (h : index.toNat ≤ 23) (s : State) :
    exec (.csRdb index) s = .next (s.withRsp .ok (zext64 (s.csRec.read index.toNat)) 0 0) :=
  if_neg (Nat.not_lt.2 h)

theorem exec_csRdb_of_lt {index : BitVec 5} (h : 23 < index.toNat) (s : State) :
    exec (.csRdb index) s = .next (s.withRsp .operandError 0 0 0) :=
  if_pos h

/-- Settles O14: the new record is the old one after a memory write, whose read laws give the written byte and all
others. -/
theorem csWrbWritesOneByte : Obligations.CsWrbWritesOneByte := by
  unfold Obligations.CsWrbWritesOneByte
  refine ⟨decode_csWrb, fun index value s => ⟨fun h => ?_, fun h => exec_csWrb_of_lt h value s⟩⟩
  exact ⟨_, exec_csWrb_of_le h value s, fun hs => Memory.read_write_self hs _ _, fun _ => Memory.read_write_ne _ _⟩

/-- Settles O15: the two sides of the index boundary. -/
theorem csRdbReadsOneByte : Obligations.CsRdbReadsOneByte := by
  unfold Obligations.CsRdbReadsOneByte
  refine ⟨decode_csRdb, fun index s => ⟨fun h => ?_, fun h => exec_csRdb_of_lt h s⟩⟩
  rw [exec_csRdb_of_le h, zext64_eq_ofNat]

end Sys2Proof.Proofs
end

section
/-! The CRC of the record (`41_channel_status.md` R104) and the commands that compute, compare and seal it
(R105 to R107). -/
namespace Sys2Proof.Proofs
open Sys2Proof Sys2Proof.Machine Sys2Proof.Claims

/-! ### The record bits that the CRC takes in -/

/-- The bits of the first `n` bytes, byte after byte, are the record bits in order (`20_memory.md` R41). -/
theorem flatMap_bitList_read (m : Memory) (n : Nat) :
    ((List.range n).flatMap fun j => bitList (m.read j)) = (List.range (8 * n)).map (csBit m) := by
  have hbit (j k : Nat) (hk : k < 8) : csBit m (8 * j + k) = (m.read j).getLsbD k := by
    rw [csBit, show (8 * j + k) / 8 = j by omega, show (8 * j + k) % 8 = k by omega]
  induction n with
  | zero => rfl
  | succ n ih =>
    rw [List.range_succ, List.flatMap_append, ih, Nat.mul_succ, List.range_add, List.map_append, List.map_map,
      List.flatMap_singleton, bitList]
    congr 1
    exact List.map_congr_left fun k hk => (hbit n k (List.mem_range.1 hk)).symm

theorem crcInput_eq (m : Memory) : crcInput m = (List.range 184).map (csBit m) := flatMap_bitList_read m 23

theorem csBit_congr {m m' : Memory} {k : Nat} (h : m'.read (k / 8) = m.read (k / 8)) : csBit m' k = csBit m k := by
  rw [csBit, csBit, h]

/-- R107: byte 23 is no input of the CRC. -/
theorem crc8_congr {m m' : Memory} (h : ∀ a, a ≠ 23 → m'.read a = m.read a) : crc8 m' = crc8 m := by
  have hbits : (List.range 184).map (csBit m') = (List.range 184).map (csBit m) :=
    List.map_congr_left fun k hk => csBit_congr (h _ (by have := List.mem_range.1 hk; omega))
  rw [crc8, crc8, crcInput_eq, crcInput_eq, hbits]

@[simp] theorem crc8_write_23 (m : Memory) (v : Byte) : crc8 (m.write 23 v) = crc8 m :=
  crc8_congr fun _ => Memory.read_write_ne m v

/-! ### The CRC as a number -/

/-- One input bit on words is one input bit on numbers: the top bit says whether the number is 128 or more. -/
theorem crcBit_toNat (c : Byte) (b : Bool) : (crcBit c b).toNat = crcStepNat c.toNat b := by
  have hshift : (c <<< 1).toNat = 2 * c.toNat % 256 := by
    rw [BitVec.toNat_shiftLeft, Nat.shiftLeft_eq, Nat.mul_comm]
  rw [crcBit, crcStepNat, BitVec.msb_eq_decide, ← hshift]
  by_cases h : b = decide (128 ≤ c.toNat)
  · rw [if_pos h, if_neg (by simpa using h)]
  · rw [if_neg h, if_pos (by simpa using h), BitVec.toNat_xor]
    rfl

theorem foldl_crcBit_toNat (g : Nat → Bool) (ks : List Nat) (c : Byte) :
    (ks.foldl (fun c k => crcBit c (g k)) c).toNat = ks.foldl (fun c k => crcStepNat c (g k)) c.toNat := by
  induction ks generalizing c with
  | nil => rfl
  | cons k ks ih => rw [List.foldl_cons, ih, crcBit_toNat, List.foldl_cons]

theorem crc8_eq_foldl (m : Memory) : crc8 m = (List.range 184).foldl (fun c k => crcBit c (csBit m k)) 0xFF := by
  rw [crc8, crcInput_eq, List.foldl_map]

theorem crc8_toNat (m : Memory) : (crc8 m).toNat = crcNat m := by
  rw [crc8_eq_foldl, foldl_crcBit_toNat]
  rfl

/-! ### `CS.CRC` and `CS.VAL` -/

theorem exec_csCrc (s : State) : exec .csCrc s = .next (s.withRsp .ok (BitVec.ofNat 64 (crcNat s.csRec)) 0 0) := by
  rw [← crc8_toNat, ← zext64_eq_ofNat]
  rfl

theorem exec_csVal_of_eq {s : State} (h : crc8 s.csRec = s.csRec.read 23) :
    exec .csVal s = .next (s.withRsp .ok 1 0 0) := by
  rw [exec, execCsVal, beq_iff_eq.2 h]
  rfl

theorem exec_csVal_of_ne {s : State} (h : crc8 s.csRec ≠ s.csRec.read 23) :
    exec .csVal s = .next (s.withRsp .ok 0 0 0) := by
  rw [exec, execCsVal, beq_eq_false_iff_ne.2 h]
  rfl

/-- Settles O16: the register of the model and that of the pseudocode hold the same number after every input bit. -/
theorem csCrcIsTheBitSerialCrc : Obligations.CsCrcIsTheBitSerialCrc := by
  unfold Obligations.CsCrcIsTheBitSerialCrc
  exact ⟨fun _ => decode_of_opcodeByte .csCrc, exec_csCrc⟩

/-- Settles O17: the bytes are equal exactly when their numbers are. -/
theorem csValComparesWithByte23 : Obligations.CsValComparesWithByte23 := by
  unfold Obligations.CsValComparesWithByte23
  refine ⟨fun _ => decode_of_opcodeByte .csVal, fun s => ?_⟩
  rw [← crc8_toNat]
  split
  · next h => exact exec_csVal_of_eq (BitVec.toNat_inj.1 h)
  · next h => exact exec_csVal_of_ne fun heq => h (congrArg BitVec.toNat heq)

/-! ### `CS.SEAL` -/

/-- R69: the byte carried from `CS.CRC` into `CS.WRB 23` is the CRC. -/
theorem csSeal_eq (s : State) :
    csSeal s = .next (({ s with csRec := s.csRec.write 23 (crc8 s.csRec) } : State).withRsp .ok 0 0 0) := by
  have hcut : (zext64 (crc8 s.csRec)).extractLsb' 0 8 = crc8 s.csRec := by
    rw [← BitVec.setWidth_eq_extractLsb' (by decide), zext64, BitVec.setWidth_setWidth_of_le _ (by decide),
      BitVec.setWidth_eq]
  change exec (.csWrb 23 ((zext64 (crc8 s.csRec)).extractLsb' 0 8)) (s.withRsp .ok (zext64 (crc8 s.csRec)) 0 0) = _
  rw [hcut, exec_csWrb_of_le (by decide)]
  rfl

/-- Settles O18: the seal is a write of the CRC at byte 23, and no write there changes the CRC. -/
theorem sealMakesTheRecordValid : Obligations.SealMakesTheRecordValid := by
  unfold Obligations.SealMakesTheRecordValid
  intro s hs
  have hread : (s.csRec.write 23 (crc8 s.csRec)).read 23 = crc8 s.csRec := Memory.read_write_self hs 23 _
  refine ⟨_, csSeal_eq s, by rw [hread, crc8_toNat], fun _ => Memory.read_write_ne _ _, fun t ht => ?_⟩
  obtain rfl := Host.Outcome.next.inj ((csSeal_eq s).symm.trans ht)
  refine ⟨exec_csVal_of_eq ((crc8_write_23 _ _).trans hread.symm), fun v u hu => ?_⟩
  obtain rfl := Host.Outcome.next.inj ((exec_csWrb_of_le (by decide) v _).symm.trans hu)
  rw [exec_csCrc, ← crc8_toNat, ← crc8_toNat]
  simp

end Sys2Proof.Proofs
end

section
/-! One flipped bit among bytes 0 to 22 (`41_channel_status.md` R108): an input bit enters the CRC register at its low
end, and the register can be run backwards. -/
namespace Sys2Proof.Proofs
open Sys2Proof Sys2Proof.Machine Sys2Proof.Claims

/-! ### The register forgets nothing -/

/-- The low bit of the register says whether 0x1D went in: the shift leaves it 0, and 0x1D is odd. -/
theorem crcBit_getLsbD_zero (c : Byte) (b : Bool) : (crcBit c b).getLsbD 0 = (b != c.msb) := by
  cases h : b != c.msb <;> simp [crcBit, h]

theorem crcBit_not_ne (c : Byte) (b : Bool) : crcBit c (!b) ≠ crcBit c b := by
  intro h
  have hlow := congrArg (BitVec.getLsbD · 0) h
  simp only [crcBit_getLsbD_zero] at hlow
  revert hlow
  cases b <;> cases c.msb <;> decide

/-- A shift to the left loses the top bit alone. -/
theorem eq_of_shiftLeft_one_eq {w : Nat} {c d : BitVec w} (hmsb : c.msb = d.msb) (h : c <<< 1 = d <<< 1) : c = d := by
  apply BitVec.eq_of_getLsbD_eq
  intro i hi
  by_cases hlast : i = w - 1
  · subst hlast
    rw [← BitVec.msb_eq_getLsbD_last, ← BitVec.msb_eq_getLsbD_last, hmsb]
  · have hbit := congrArg (BitVec.getLsbD · (i + 1)) h
    simpa [show i + 1 < w by omega, hi] using hbit

/-- The old register is determined by the new one and the input bit. -/
theorem crcBit_injective (b : Bool) : Function.Injective fun c => crcBit c b := by
  intro c d h
  have hlow : (b != c.msb) = (b != d.msb) := by
    rw [← crcBit_getLsbD_zero, ← crcBit_getLsbD_zero]
    exact congrArg (BitVec.getLsbD · 0) h
  have hmsb : c.msb = d.msb := by simpa using hlow
  refine eq_of_shiftLeft_one_eq hmsb ?_
  simp only [crcBit, hmsb] at h
  split at h
  · exact (BitVec.xor_left_inj _).1 h
  · exact h

theorem foldl_crcBit_injective (g : Nat → Bool) (ks : List Nat) :
    Function.Injective fun c => ks.foldl (fun c k => crcBit c (g k)) c := by
  induction ks with
  | nil => exact Function.injective_id
  | cons k ks ih => exact ih.comp (crcBit_injective (g k))

/-! ### R108 -/

/-- Before the flipped input bit the two registers agree, at it they part, and after it they stay apart. -/
theorem foldl_crcBit_ne_of_one_flip {g g' : Nat → Bool} {ks : List Nat} (hks : ks.Nodup) {n : Nat} (hn : n ∈ ks)
    (h : ∀ k ∈ ks, g' k = (g k ^^ decide (k = n))) (c : Byte) :
    ks.foldl (fun c k => crcBit c (g' k)) c ≠ ks.foldl (fun c k => crcBit c (g k)) c := by
  induction ks generalizing c with
  | nil => cases hn
  | cons k ks ih =>
    obtain ⟨hk, hrest⟩ := List.forall_mem_cons.1 h
    obtain ⟨hnot, hnodup⟩ := List.nodup_cons.1 hks
    rw [List.foldl_cons, List.foldl_cons, hk]
    by_cases hkn : k = n
    · subst hkn
      have hsame (c : Byte) (j : Nat) (hj : j ∈ ks) : crcBit c (g' j) = crcBit c (g j) := by
        rw [hrest j hj, decide_eq_false (ne_of_mem_of_not_mem hj hnot), Bool.xor_false]
      rw [decide_eq_true rfl, Bool.xor_true, List.foldl_ext _ _ _ hsame]
      exact (foldl_crcBit_injective g ks).ne (crcBit_not_ne c (g k))
    · rw [decide_eq_false hkn, Bool.xor_false]
      exact ih hnodup (List.mem_of_ne_of_mem (Ne.symm hkn) hn) hrest _

theorem crc8_ne_of_one_flip {m m' : Memory} {n : Nat} (hn : n < 184)
    (h : ∀ k, k < 184 → csBit m' k = (csBit m k ^^ decide (k = n))) : crc8 m' ≠ crc8 m := by
  rw [crc8_eq_foldl, crc8_eq_foldl]
  exact foldl_crcBit_ne_of_one_flip List.nodup_range (List.mem_range.2 hn) (fun k hk => h k (List.mem_range.1 hk)) _

/-- R41: flipping bit `n % 8` of byte `n / 8` is flipping record bit `n`. -/
theorem csBit_write_flip {m : Memory} (hm : m.wf) (n k : Nat) :
    csBit (m.write (n / 8) (m.read (n / 8) ^^^ (1#8 <<< (n % 8)))) k = (csBit m k ^^ decide (k = n)) := by
  rw [csBit, csBit]
  by_cases hbyte : k / 8 = n / 8
  · rw [hbyte, Memory.read_write_self hm, BitVec.getLsbD_xor]
    congr 1
    change (BitVec.twoPow 8 (n % 8)).getLsbD (k % 8) = decide (k = n)
    rw [BitVec.getLsbD_twoPow, decide_eq_true (Nat.mod_lt _ (by decide)), Bool.true_and]
    exact decide_eq_decide.2 (by omega)
  · have hne : k ≠ n := fun h => hbyte (congrArg (· / 8) h)
    simp [Memory.read_write_ne _ _ hbyte, hne]

theorem crc8_eq_of_exec_csVal {s : State} (h : exec .csVal s = .next (s.withRsp .ok 1 0 0)) :
    crc8 s.csRec = s.csRec.read 23 := by
  by_contra hne
  have hrsp := (exec_csVal_of_ne hne).symm.trans h
  simp [State.withRsp] at hrsp

/-- Settles O19: a flip by `CS.WRB` is a flip of one record bit and leaves byte 23 alone; the records that differ by the
generator polynomial 0x11D itself, in five bits, have the same CRC. -/
theorem oneFlippedBitChangesTheCrc : Obligations.OneFlippedBitChangesTheCrc := by
  unfold Obligations.OneFlippedBitChangesTheCrc
  refine ⟨fun m m' n => crc8_ne_of_one_flip, fun s u n hs hn hval hu => ?_, [], [(0, 0x71), (1, 0x01)], ?_⟩
  · have hindex : (BitVec.ofNat 5 (n / 8)).toNat = n / 8 := by rw [BitVec.toNat_ofNat]; omega
    obtain rfl := Host.Outcome.next.inj ((exec_csWrb_of_le (by omega) _ s).symm.trans hu)
    refine exec_csVal_of_ne ?_
    simp only [State.withRsp_csRec, hindex]
    rw [Memory.read_write_ne _ _ (by omega), ← crc8_eq_of_exec_csVal hval]
    exact crc8_ne_of_one_flip hn fun k _ => csBit_write_flip hs n k
  · decide +kernel

end Sys2Proof.Proofs
end

section
/-! The eight named fields of the record: what the setters write (`41_channel_status.md` R102, R103, R112 to R119), what
the getters return (R120 to R127), and get after set (R128). -/
namespace Sys2Proof.Proofs
open Sys2Proof Sys2Proof.Machine Sys2Proof.Claims

/-! ### A field of a byte -/

theorem fieldMask_getLsbD (f : FieldPos) {k : Nat} (hk : k < 8) :
    (fieldMask f).getLsbD k = decide (f.lo ≤ k ∧ k < f.lo + f.width) := by
  have hlt : k - f.lo < 8 := by omega
  rw [fieldMask, BitVec.getLsbD_shiftLeft, BitVec.getLsbD_ofNat, Nat.testBit_two_pow_sub_one]
  by_cases hlo : k < f.lo
  · simp [hlo, Nat.not_le.2 hlo]
  · have hiff : k - f.lo < f.width ↔ k < f.lo + f.width := by omega
    simp [hk, hlt, hlo, hiff, Nat.not_lt.1 hlo]

theorem getLsbD_eq_false_of_toNat_lt {w n i : Nat} {x : BitVec w} (hx : x.toNat < 2 ^ n) (hi : n ≤ i) :
    x.getLsbD i = false :=
  Nat.testBit_lt_two_pow (hx.trans_le (Nat.pow_le_pow_right (by decide) hi))

/-- R102 bit by bit: the field's bits are those of a value that fits, every other bit of the byte stays. -/
theorem read_csSet_getLsbD {m : Memory} (hm : m.wf) {f : FieldPos} {x : BitVec 64} (hx : x.toNat < 2 ^ f.width)
    {k : Nat} (hk : k < 8) : ((csSet m f x).read f.byte).getLsbD k =
      if f.lo ≤ k ∧ k < f.lo + f.width then x.getLsbD (k - f.lo) else (m.read f.byte).getLsbD k := by
  have hlt : k - f.lo < 8 := by omega
  rw [read_csSet_self hm, BitVec.getLsbD_or, BitVec.getLsbD_and, BitVec.getLsbD_not, fieldMask_getLsbD f hk,
    BitVec.getLsbD_shiftLeft, BitVec.getLsbD_setWidth]
  split
  · next hin => simp [hk, hlt, hin, Nat.not_lt.2 hin.1]
  · next hout =>
    obtain hlo | hlo := Nat.lt_or_ge k f.lo
    · simp [hk, hout, hlo]
    · simp [hk, hout, getLsbD_eq_false_of_toNat_lt hx (by omega : f.width ≤ k - f.lo)]

theorem csGet_getLsbD (m : Memory) (f : FieldPos) (i : Nat) :
    (csGet m f).getLsbD i = (decide (i < f.width) && (m.read f.byte).getLsbD (f.lo + i)) :=
  BitVec.getLsbD_extractLsb' ..

theorem csGet_congr {m m' : Memory} {f : FieldPos} (h : m'.read f.byte = m.read f.byte) : csGet m' f = csGet m f := by
  rw [csGet, csGet, h]

theorem csGet_csSet_self {m : Memory} (hm : m.wf) {f : FieldPos} (hf : f.lo + f.width ≤ 8) {x : BitVec 64}
    (hx : x.toNat < 2 ^ f.width) : csGet (csSet m f x) f = x.setWidth f.width := by
  apply BitVec.eq_of_getLsbD_eq
  intro i hi
  rw [csGet_getLsbD, read_csSet_getLsbD hm hx (by omega), if_pos (by omega), Nat.add_sub_cancel_left,
    BitVec.getLsbD_setWidth]

/-- The two fields share no bit of the record. -/
def FieldsDisjoint (f g : FieldPos) : Prop := g.byte ≠ f.byte ∨ f.lo + f.width ≤ g.lo ∨ g.lo + g.width ≤ f.lo

theorem csGet_csSet_of_disjoint {m : Memory} (hm : m.wf) {f g : FieldPos} (hg : g.lo + g.width ≤ 8)
    (hfg : FieldsDisjoint f g) {x : BitVec 64} (hx : x.toNat < 2 ^ f.width) : csGet (csSet m f x) g = csGet m g := by
  by_cases hbyte : g.byte = f.byte
  · obtain hne | hapart := hfg
    · exact absurd hbyte hne
    · apply BitVec.eq_of_getLsbD_eq
      intro i hi
      rw [csGet_getLsbD, csGet_getLsbD, hbyte, read_csSet_getLsbD hm hx (by omega), if_neg (by omega)]
  · exact csGet_congr (read_csSet_ne m f x hbyte)

theorem zext64_csGet (m : Memory) (f : FieldPos) :
    zext64 (csGet m f) = BitVec.ofNat 64 ((m.read f.byte).toNat / 2 ^ f.lo % 2 ^ f.width) := by
  rw [zext64_eq_ofNat, csGet, BitVec.extractLsb'_toNat, Nat.shiftRight_eq_div_pow]

theorem zext64_setWidth_of_lt {w : Nat} {x : BitVec 64} (hx : x.toNat < 2 ^ w) : zext64 (x.setWidth w) = x := by
  rw [zext64_eq_ofNat, BitVec.toNat_setWidth, Nat.mod_eq_of_lt hx, BitVec.ofNat_toNat, BitVec.setWidth_eq]

/-! ### The eight rows of the spec's table and the model's positions -/

/-- The place the row gives its field. -/
def posOf (row : FieldRow) : FieldPos := ⟨row.byte, row.lo, row.width⟩

theorem exec_set_of_mem {row : FieldRow} (h : row ∈ fieldRows) (x : BitVec 64) (s : State) :
    exec (row.set x) s = setField (posOf row) x s := by
  fin_cases h <;> rfl

theorem exec_get_of_mem {row : FieldRow} (h : row ∈ fieldRows) (s : State) :
    exec row.get s = getField (posOf row) s := by
  fin_cases h <;> rfl

theorem decode_set_of_mem {row : FieldRow} (h : row ∈ fieldRows) (cmd : Cmd) :
    cmd.extractLsb' 88 8 = row.setOp → decode cmd = some (row.set (cmd.extractLsb' 0 64)) := by
  fin_cases h
  exacts [decode_of_opcodeByte .csSetPro, decode_of_opcodeByte .csSetPcm, decode_of_opcodeByte .csSetEmph,
    decode_of_opcodeByte .csSetLock, decode_of_opcodeByte .csSetFs, decode_of_opcodeByte .csSetAux,
    decode_of_opcodeByte .csSetWlen, decode_of_opcodeByte .csSetAlign]

theorem decode_get_of_mem {row : FieldRow} (h : row ∈ fieldRows) (cmd : Cmd) :
    cmd.extractLsb' 88 8 = row.getOp → decode cmd = some row.get := by
  fin_cases h
  exacts [decode_of_opcodeByte .csGetPro, decode_of_opcodeByte .csGetPcm, decode_of_opcodeByte .csGetEmph,
    decode_of_opcodeByte .csGetLock, decode_of_opcodeByte .csGetFs, decode_of_opcodeByte .csGetAux,
    decode_of_opcodeByte .csGetWlen, decode_of_opcodeByte .csGetAlign]

theorem lo_add_width_le_of_mem : ∀ row ∈ fieldRows, (posOf row).lo + (posOf row).width ≤ 8 := by decide

/-- R101: no two of the eight fields share a bit. -/
theorem fieldsDisjoint_of_mem : ∀ row ∈ fieldRows, ∀ other ∈ fieldRows, other.getOp ≠ row.getOp →
    FieldsDisjoint (posOf row) (posOf other) := by
  unfold FieldsDisjoint
  decide

/-! ### Setters and getters -/

theorem exec_set_of_lt {row : FieldRow} (hrow : row ∈ fieldRows) {x : BitVec 64}
    (hx : x.toNat < 2 ^ (posOf row).width) (s : State) :
    exec (row.set x) s = .next (({ s with csRec := csSet s.csRec (posOf row) x } : State).withRsp .ok 0 0 0) := by
  rw [exec_set_of_mem hrow, setField, if_neg (Nat.not_le.2 hx)]
  rfl

theorem exec_set_of_le {row : FieldRow} (hrow : row ∈ fieldRows) {x : BitVec 64}
    (hx : 2 ^ (posOf row).width ≤ x.toNat) (s : State) : exec (row.set x) s = .next (s.withRsp .configError 0 0 0) := by
  rw [exec_set_of_mem hrow, setField, if_pos hx]
  rfl

theorem exec_get_eq {row : FieldRow} (hrow : row ∈ fieldRows) (s : State) :
    exec row.get s = .next (s.withRsp .ok (zext64 (csGet s.csRec (posOf row))) 0 0) :=
  exec_get_of_mem hrow s

/-- Settles O20: every row's setter is `setField` at the row's place, whose write is read bit by bit. -/
theorem settersWriteExactlyTheirField : Obligations.SettersWriteExactlyTheirField := by
  unfold Obligations.SettersWriteExactlyTheirField
  refine fun row hrow => ⟨decode_set_of_mem hrow, fun x s => ⟨fun hx => ?_, fun hx => exec_set_of_le hrow hx s⟩⟩
  exact ⟨_, exec_set_of_lt hrow hx s, fun hs _ => read_csSet_getLsbD (f := posOf row) hs hx,
    fun _ => read_csSet_ne _ (posOf row) x⟩

/-- Settles O21: every row's getter is `getField` at the row's place, and a field is a quotient and a remainder. -/
theorem gettersReturnTheirField : Obligations.GettersReturnTheirField := by
  unfold Obligations.GettersReturnTheirField
  refine fun row hrow => ⟨decode_get_of_mem hrow, fun s => ?_⟩
  rw [exec_get_eq hrow, zext64_csGet, posOf]

/-! ### Get after set -/

theorem read_of_setField {f : FieldPos} {x : BitVec 64} {s t : State} {j : Nat}
    (h : nextOf (setField f x s) = some t) (hj : j ≠ f.byte) : t.csRec.read j = s.csRec.read j := by
  obtain ⟨-, hw⟩ | ⟨-, hw⟩ := setField_cases f x s
  · rw [hw] at h
    obtain rfl := Option.some.inj h
    exact read_csSet_ne _ f x hj
  · rw [hw] at h
    obtain rfl := Option.some.inj h
    rfl

theorem read_of_execCsWrb {index : BitVec 5} {value : Byte} {s t : State} {j : Nat}
    (h : nextOf (execCsWrb index value s) = some t) (hj : j ≠ index.toNat) : t.csRec.read j = s.csRec.read j := by
  unfold execCsWrb at h
  split at h
  · obtain rfl := Option.some.inj h
    rfl
  · obtain rfl := Option.some.inj h
    exact Memory.read_write_ne _ _ hj

/-- A command that does not write byte `j` keeps it: it keeps the record, or it writes another byte. -/
theorem read_of_exec {i : Instr} {s t : State} {j : Nat} (hi : writesByte j i = false)
    (h : nextOf (exec i s) = some t) : t.csRec.read j = s.csRec.read j := by
  by_cases hw : writesRecord i = false
  · rw [csRec_of_nextOf_exec hw h]
  · cases i with
    | csClr => cases hi
    | csWrb index value => exact read_of_execCsWrb h (Ne.symm (beq_eq_false_iff_ne.1 hi))
    | csSetPro | csSetPcm | csSetEmph | csSetLock | csSetFs | csSetAux | csSetWlen | csSetAlign =>
      exact read_of_setField h (beq_eq_false_iff_ne.1 hi)
    | _ => exact absurd rfl hw

theorem read_of_runInstrs {is : List Instr} {s t : State} {j : Nat} (his : ∀ i ∈ is, writesByte j i = false)
    (h : runInstrs is s = some t) : t.csRec.read j = s.csRec.read j := by
  induction is generalizing s with
  | nil => cases h; rfl
  | cons i is ih =>
    obtain ⟨hi, his⟩ := List.forall_mem_cons.1 his
    obtain ⟨u, hu, ht⟩ := Option.bind_eq_some_iff.1 h
    exact (ih his ht).trans (read_of_exec hi hu)

/-- Settles O22: the commands between keep the field's byte, so the getter sees the record the setter left; another
field shares no bit with the one written. -/
theorem getAfterSetReturnsTheValue : Obligations.GetAfterSetReturnsTheValue := by
  unfold Obligations.GetAfterSetReturnsTheValue
  intro row hrow x s t hx hs ht
  obtain rfl := Host.Outcome.next.inj ((exec_set_of_lt hrow hx s).symm.trans ht)
  refine ⟨fun is u his hu => ?_, fun other hother hne => ?_⟩
  · have hbyte := read_of_runInstrs his hu
    rw [exec_get_eq hrow, csGet_congr (f := posOf row) hbyte, State.withRsp_csRec,
      csGet_csSet_self hs (lo_add_width_le_of_mem row hrow) hx, zext64_setWidth_of_lt (w := (posOf row).width) hx]
  · have hget := csGet_csSet_of_disjoint hs (lo_add_width_le_of_mem other hother)
      (fieldsDisjoint_of_mem row hrow other hother hne) hx
    rw [exec_get_eq hother, exec_get_eq hother, State.withRsp_csRec, hget]
    rfl

end Sys2Proof.Proofs
end

section
/-! The Subframe Assembler (`42_subframe_assembler.md`): which bit of an assembled subframe is where (R143), how many of
its data slots hold 1 (R145), and the two commands (R142, R144). -/
namespace Sys2Proof.Proofs
open Sys2Proof Sys2Proof.Machine Sys2Proof.Claims

/-! ### The bits of an assembled subframe -/

@[simp] theorem slotBits_length (aw : AudioWord) (v u c ap : Bool) : (slotBits aw v u c ap).length = 28 := by
  simp [slotBits]

/-- The first 24 data slots carry the audio word, most significant bit first. -/
theorem slotBits_getD_audio (aw : AudioWord) (v u c ap : Bool) {n : Nat} (h : n < 24) :
    ((slotBits aw v u c ap)[n]?).getD false = aw.getLsbD (23 - n) := by
  have hlen : n < (bitList aw).length := by rwa [bitList_length]
  rw [slotBits, List.getElem?_append_left (by rwa [List.length_reverse]), List.getElem?_reverse hlen, bitList_length,
    bitList_getD]

/-- The last four data slots carry validity, user and channel-status bit and the parity. -/
theorem slotBits_getElem?_status (aw : AudioWord) (v u c ap : Bool) (k : Nat) :
    (slotBits aw v u c ap)[24 + k]? = [v, u, c, ap && parityBit aw v u c][k]? := by
  have hlen : (bitList aw).reverse.length = 24 := by rw [List.length_reverse, bitList_length]
  rw [slotBits, List.getElem?_append_right (by omega), hlen, Nat.add_sub_cancel_left]

section
variable (aw : AudioWord) (v u c : Bool) (pre : Byte) (ap : Bool)

/-- Slots 0 to 3 are the preamble octet. -/
theorem sfBuild_getLsbD_preamble {i : Nat} (h : i < 8) : (sfBuild aw v u c pre ap).getLsbD i = pre.getLsbD i := by
  have hlt : i < 64 := by omega
  rw [sfBuild, packBits_getLsbD, decide_eq_true hlt, Bool.true_and,
    List.getElem?_append_left (by rwa [bitList_length]), bitList_getD]

/-- The second bit of a data slot repeats the logical bit. -/
theorem sfBuild_getLsbD_odd {n : Nat} (h : n < 28) :
    (sfBuild aw v u c pre ap).getLsbD (2 * (n + 4) + 1) = lbit (sfBuild aw v u c pre ap) (n + 4) := by
  have hlt : 2 * (n + 4) + 1 < 64 := by omega
  have hpast : (bitList pre).length ≤ 2 * (n + 4) + 1 := by rw [bitList_length]; omega
  rw [lbit_sfBuild aw v u c pre ap h, sfBuild, packBits_getLsbD, decide_eq_true hlt, Bool.true_and,
    List.getElem?_append_right hpast, bitList_length, show 2 * (n + 4) + 1 - 8 = 2 * n + 1 by omega,
    doubled_getElem?_odd]

/-- Both bits of data slot `n + 4` are logical bit `n`. -/
theorem sfBuild_getLsbD_slot {n : Nat} (h : n < 28) :
    (sfBuild aw v u c pre ap).getLsbD (8 + 2 * n) = ((slotBits aw v u c ap)[n]?).getD false ∧
    (sfBuild aw v u c pre ap).getLsbD (9 + 2 * n) = ((slotBits aw v u c ap)[n]?).getD false := by
  rw [← lbit_sfBuild aw v u c pre ap h, show 9 + 2 * n = 2 * (n + 4) + 1 by omega,
    sfBuild_getLsbD_odd aw v u c pre ap h, lbit, show 8 + 2 * n = 2 * (n + 4) by omega]
  exact ⟨rfl, rfl⟩

theorem sfBuild_getLsbD_audio {n : Nat} (h : n < 24) :
    (sfBuild aw v u c pre ap).getLsbD (8 + 2 * n) = aw.getLsbD (23 - n) ∧
    (sfBuild aw v u c pre ap).getLsbD (9 + 2 * n) = aw.getLsbD (23 - n) := by
  rw [← slotBits_getD_audio aw v u c ap h]
  exact sfBuild_getLsbD_slot aw v u c pre ap (by omega)

theorem sfBuild_getLsbD_status {k : Nat} (h : k < 4) :
    (sfBuild aw v u c pre ap).getLsbD (56 + 2 * k) = ([v, u, c, ap && parityBit aw v u c][k]?).getD false ∧
    (sfBuild aw v u c pre ap).getLsbD (57 + 2 * k) = ([v, u, c, ap && parityBit aw v u c][k]?).getD false := by
  rw [← slotBits_getElem?_status, show 56 + 2 * k = 8 + 2 * (24 + k) by omega,
    show 57 + 2 * k = 9 + 2 * (24 + k) by omega]
  exact sfBuild_getLsbD_slot aw v u c pre ap (by omega)

/-- Slot 31 holds the parity, and stays clear without auto-parity. -/
theorem sfBuild_getLsbD_parity :
    (sfBuild aw v u c pre ap).getLsbD 62 = (ap && parityBit aw v u c) ∧
    (sfBuild aw v u c pre ap).getLsbD 63 = (ap && parityBit aw v u c) :=
  sfBuild_getLsbD_status aw v u c pre ap (k := 3) (by decide)

/-! ### The number of ones -/

theorem popcount_eq_countP {w : Nat} (x : BitVec w) : popcount x = (List.range w).countP fun i => x.getLsbD i := by
  simp [popcount, bitList, List.count, List.countP_map, Function.comp_def]

/-- The logical bits of slots 4 to 31, slot 4 first, are those that were laid out. -/
theorem map_lbit_sfBuild :
    (List.range 28).map (fun n => lbit (sfBuild aw v u c pre ap) (n + 4)) = slotBits aw v u c ap := by
  apply List.ext_getElem (by simp)
  intro n hn hn'
  rw [slotBits_length] at hn'
  simp [lbit_sfBuild aw v u c pre ap hn', hn']

theorem count_true_cons (b : Bool) (bs : List Bool) : (b :: bs).count true = b.toNat + bs.count true := by
  cases b <;> simp [Nat.add_comm]

theorem count_slotBits : (slotBits aw v u c ap).count true =
    popcount aw + v.toNat + u.toNat + c.toNat + (ap && parityBit aw v u c).toNat := by
  rw [slotBits, List.count_append, List.count_reverse, ← popcount]
  simp only [count_true_cons, List.count_nil, Nat.add_assoc, Nat.add_zero]

/-- R145: the ones of the data slots are the ones of the inputs and the parity bit. -/
theorem dataOnes_sfBuild : dataOnes (sfBuild aw v u c pre ap) =
    popcount aw + v.toNat + u.toNat + c.toNat + (ap && parityBit aw v u c).toNat := by
  rw [← count_slotBits, ← map_lbit_sfBuild aw v u c pre ap, List.count, List.countP_map]
  simp only [dataOnes, Function.comp_def, beq_true, lbit]

/-- The parity bit makes the number of ones even. -/
theorem dataOnes_sfBuild_true_even : dataOnes (sfBuild aw v u c pre true) % 2 = 0 := by
  rw [dataOnes_sfBuild, Bool.true_and, parityBit]
  obtain h | h := Nat.mod_two_eq_zero_or_one (popcount aw + v.toNat + u.toNat + c.toNat)
  · rw [h]; exact h
  · rw [h]; exact Nat.succ_mod_two_eq_zero_iff.2 h

theorem parityBit_eq_decide : parityBit aw v u c =
    decide (((List.range 24).countP (fun i => aw.getLsbD i) + v.toNat + u.toNat + c.toNat) % 2 = 1) := by
  rw [← popcount_eq_countP]
  rfl

end

/-! ### The subframes CORE builds -/

/-- The subframe is one the assembly function lays out, with auto-parity as given. -/
def Assembled (ap : Bool) (sf : Subframe) : Prop := ∃ aw v u c pre, sf = sfBuild aw v u c pre ap

theorem Assembled.slot_doubled {ap : Bool} {sf : Subframe} (h : Assembled ap sf) {n : Nat} (h4 : 4 ≤ n)
    (h32 : n < 32) : sf.getLsbD (2 * n) = sf.getLsbD (2 * n + 1) := by
  obtain ⟨aw, v, u, c, pre, rfl⟩ := h
  obtain ⟨k, rfl⟩ := Nat.exists_eq_add_of_le' h4
  exact (sfBuild_getLsbD_odd aw v u c pre ap (by omega)).symm

theorem Assembled.dataOnes_even {sf : Subframe} (h : Assembled true sf) : dataOnes sf % 2 = 0 := by
  obtain ⟨aw, v, u, c, pre, rfl⟩ := h
  exact dataOnes_sfBuild_true_even aw v u c pre

theorem Assembled.slot31_clear {sf : Subframe} (h : Assembled false sf) :
    sf.getLsbD 62 = false ∧ sf.getLsbD 63 = false := by
  obtain ⟨aw, v, u, c, pre, rfl⟩ := h
  exact sfBuild_getLsbD_parity aw v u c pre false

theorem frameSubframe_assembled (s : State) (e : Encoded) (user : Bool) (ch : Channel) :
    Assembled s.saCfg.ap (frameSubframe s e user ch) :=
  ⟨_, _, _, _, _, rfl⟩

/-- `FA.STEP` answers an error with both results 0, or two assembled subframes. -/
theorem execFaStep_refused_or_assembled {xA : Sample} {vA uA : Bool} {xB : Sample} {vB uB : Bool} {s t : State}
    {r : Response} (h : execFaStep xA vA uA xB vB uB s = .next t) (hr : t.rsp = some r) :
    (r.st ≠ .ok ∧ r.r0 = 0 ∧ r.r1 = 0) ∨ (Assembled s.saCfg.ap r.r0 ∧ Assembled s.saCfg.ap r.r1) := by
  cases hA : seEncode s.seCfg xA vA with
  | none =>
    obtain rfl := raise_eq_next ((execFaStep_of_refused_a hA).symm.trans h)
    obtain rfl : _ = r := Option.some.inj hr
    exact .inl ⟨by decide, rfl, rfl⟩
  | some eA =>
    cases hB : seEncode s.seCfg xB vB with
    | none =>
      obtain rfl := raise_eq_next ((execFaStep_of_refused_b hA hB).symm.trans h)
      obtain rfl : _ = r := Option.some.inj hr
      exact .inl ⟨by decide, rfl, rfl⟩
    | some eB =>
      obtain rfl := respond_eq_next ((execFaStep_of_encoded hA hB).symm.trans h)
      obtain rfl : _ = r := Option.some.inj hr
      exact .inr ⟨frameSubframe_assembled .., frameSubframe_assembled ..⟩

/-- Everything a response can carry where a subframe stands: 0 on an error, else an assembled subframe. -/
theorem mem_subframesOf_refused_or_assembled {i : Instr} {s t : State} {r : Response} (h : exec i s = .next t)
    (hr : t.rsp = some r) {sf : Subframe} (hsf : sf ∈ subframesOf r i) :
    (r.st ≠ .ok ∧ sf = 0) ∨ Assembled s.saCfg.ap sf := by
  cases i with
  | saBuild aw v u c pre =>
    obtain rfl := respond_eq_next h
    obtain rfl : _ = r := Option.some.inj hr
    exact .inr ⟨aw, v, u, c, pre, List.mem_singleton.1 hsf⟩
  | faStep xA vA uA xB vB uB =>
    have hmem : sf = r.r0 ∨ sf = r.r1 := by simpa [subframesOf] using hsf
    obtain ⟨hst, h0, h1⟩ | ⟨h0, h1⟩ := execFaStep_refused_or_assembled h hr
    · exact .inl ⟨hst, hmem.elim (·.trans h0) (·.trans h1)⟩
    · exact .inr (hmem.elim (· ▸ h0) (· ▸ h1))
  | _ => cases hsf

/-! ### The two commands -/

theorem decode_saCfg (cmd : Cmd) (h : cmd.extractLsb' 88 8 = 0x40#8) :
    decode cmd = some (.saCfg (cmd.getLsbD 64)) := by
  simp (disch := decide) only [decode_of_opcodeByte .saCfg h, operandsOf, cmdB_getLsbD]

theorem decode_saBuild (cmd : Cmd) (h : cmd.extractLsb' 88 8 = 0x41#8) : decode cmd = some
    (.saBuild (cmd.extractLsb' 0 24) (cmd.getLsbD 64) (cmd.getLsbD 65) (cmd.getLsbD 66) (cmd.extractLsb' 72 8)) := by
  simp (disch := decide) only [decode_of_opcodeByte .saBuild h, operandsOf, cmdA_extractLsb', cmdB_extractLsb',
    cmdB_getLsbD]

theorem exec_saCfg (ap : Bool) (s : State) :
    exec (.saCfg ap) s = .next (({ s with saCfg := { ap := ap } } : State).withRsp .ok 0 0 0) := rfl

theorem exec_saBuild (aw : AudioWord) (v u c : Bool) (pre : Byte) (s : State) :
    exec (.saBuild aw v u c pre) s = .next (s.withRsp .ok (sfBuild aw v u c pre s.saCfg.ap) 0 0) := rfl

/-- Settles O23: after `SA.CFG` with 0 a response carries 0 or a subframe assembled without auto-parity, whose ones are
those of the inputs. -/
theorem saCfgSetsAutoParity : Obligations.SaCfgSetsAutoParity := by
  unfold Obligations.SaCfgSetsAutoParity
  refine ⟨decode_saCfg, exec_saCfg, fun s t u i r ht hu hr sf hsf => ?_, fun aw v u c pre => ?_⟩
  · obtain rfl := Host.Outcome.next.inj ((exec_saCfg false s).symm.trans ht)
    obtain ⟨-, rfl⟩ | hsf := mem_subframesOf_refused_or_assembled hu hr hsf
    · decide
    · exact hsf.slot31_clear
  · rw [dataOnes_sfBuild, popcount_eq_countP]
    rfl

/-- Settles O24: the answer is the assembled subframe, read bit by bit. -/
theorem saBuildLaysOutTheSubframe : Obligations.SaBuildLaysOutTheSubframe := by
  unfold Obligations.SaBuildLaysOutTheSubframe
  refine ⟨decode_saBuild, fun aw v u c pre s => ⟨_, exec_saBuild aw v u c pre s,
    fun _ => sfBuild_getLsbD_preamble aw v u c pre _, fun _ => sfBuild_getLsbD_audio aw v u c pre _,
    sfBuild_getLsbD_status aw v u c pre _ (k := 0) (by decide),
    sfBuild_getLsbD_status aw v u c pre _ (k := 1) (by decide),
    sfBuild_getLsbD_status aw v u c pre _ (k := 2) (by decide), fun hap => ?_, fun hap => ?_⟩⟩
  · rw [hap]
    exact sfBuild_getLsbD_parity aw v u c pre false
  · rw [hap, ← parityBit_eq_decide]
    exact sfBuild_getLsbD_parity aw v u c pre true

/-- Settles O25: a successful response carries assembled subframes only. -/
theorem builtSubframesHaveEvenParity : Obligations.BuiltSubframesHaveEvenParity := by
  unfold Obligations.BuiltSubframesHaveEvenParity
  intro i s t r h hr hok sf hsf
  obtain ⟨hst, -⟩ | hbuilt := mem_subframesOf_refused_or_assembled h hr hsf
  · exact absurd hok hst
  · exact ⟨fun n => hbuilt.slot_doubled, fun hap => (hap ▸ hbuilt : Assembled true sf).dataOnes_even⟩

end Sys2Proof.Proofs
end

section
/-! The biphase-mark functions (`43_channel_coder.md` R161, R164): the line level cell by cell, which interval of the
coded word is which level, and which bit of the decoded word is read from which cell. -/
namespace Sys2Proof.Proofs
open Sys2Proof Sys2Proof.Machine

/-! ### The interval sequence -/

@[simp] theorem bmcLast_nil (lvl : Bool) : bmcLast lvl [] = lvl := rfl

/-- R161: a cell leaves the line at the level after its two changes, or its one. -/
@[simp] theorem bmcLast_cons (lvl b : Bool) (bs : List Bool) : bmcLast lvl (b :: bs) = bmcLast (!lvl ^^ b) bs := rfl

theorem bmcLast_take_succ {bs : List Bool} {i : Nat} {b : Bool} (h : bs[i]? = some b) (lvl : Bool) :
    bmcLast lvl (bs.take (i + 1)) = (!bmcLast lvl (bs.take i) ^^ b) := by
  rw [List.take_add_one, h, bmcLast_append]
  rfl

/-- Cell `i` first leaves the level of the cells before it and ends at the level of the cells up to it. -/
theorem bmcIntervals_getElem?_cell (lvl : Bool) {bs : List Bool} {i : Nat} (h : i < bs.length) :
    (bmcIntervals lvl bs)[2 * i]? = some (!bmcLast lvl (bs.take i)) ∧
    (bmcIntervals lvl bs)[2 * i + 1]? = some (bmcLast lvl (bs.take (i + 1))) := by
  induction bs generalizing lvl i with
  | nil => cases h
  | cons b bs ih =>
    cases i with
    | zero => exact ⟨rfl, rfl⟩
    | succ i => exact ih _ (Nat.lt_of_succ_lt_succ h)

/-! ### `bmc_encode` -/

/-- What `bmc_encode` returns is the interval sequence. -/
theorem bmcIntervals_getElem?_eq_bmcEncode (bits : BitVec 32) (prev : Bool) {n j : Nat} (hn : n ≤ 32)
    (hj : j < 2 * n) :
    (bmcIntervals prev ((bitList bits).take n))[j]? = some ((bmcEncode bits n prev).1.getLsbD j) := by
  have hlen : j < (bmcIntervals prev ((bitList bits).take n)).length := by simp; omega
  have hj64 : j < 64 := by omega
  rw [bmcEncode, packBits_getLsbD, decide_eq_true hj64, Bool.true_and, List.getElem?_eq_getElem hlen,
    Option.getD_some]

@[simp] theorem bmcEncode_zero_snd (bits : BitVec 32) (prev : Bool) : (bmcEncode bits 0 prev).2 = prev := rfl

theorem bmcEncode_succ_snd (bits : BitVec 32) (prev : Bool) {i : Nat} (hi : i < 32) :
    (bmcEncode bits (i + 1) prev).2 = (!(bmcEncode bits i prev).2 ^^ bits.getLsbD i) :=
  bmcLast_take_succ (by rw [bitList_getElem?, if_pos hi]) prev

section
variable (bits : BitVec 32) (prev : Bool) {n i : Nat}

/-- The last level of the first `i` bits is the level that cell `i` starts by leaving. -/
theorem bmcEncode_getLsbD_first (hn : n ≤ 32) (hi : i < n) :
    (bmcEncode bits n prev).1.getLsbD (2 * i) = !(bmcEncode bits i prev).2 := by
  have hcell := (bmcIntervals_getElem?_cell prev (bs := (bitList bits).take n) (i := i) (by simp; omega)).1
  rw [bmcIntervals_getElem?_eq_bmcEncode bits prev hn (by omega), List.take_take, Nat.min_eq_left hi.le] at hcell
  exact Option.some.inj hcell

theorem bmcEncode_getLsbD_second (hn : n ≤ 32) (hi : i < n) :
    (bmcEncode bits n prev).1.getLsbD (2 * i + 1) = (bmcEncode bits (i + 1) prev).2 := by
  have hcell := (bmcIntervals_getElem?_cell prev (bs := (bitList bits).take n) (i := i) (by simp; omega)).2
  rw [bmcIntervals_getElem?_eq_bmcEncode bits prev hn (by omega), List.take_take, Nat.min_eq_left hi] at hcell
  exact Option.some.inj hcell

theorem bmcEncode_getLsbD_of_ge {j : Nat} (hj : 2 * n ≤ j) : (bmcEncode bits n prev).1.getLsbD j = false := by
  have hlen : (bmcIntervals prev ((bitList bits).take n)).length ≤ j := by simp; omega
  rw [bmcEncode, packBits_getLsbD, List.getElem?_eq_none hlen, Option.getD_none, Bool.and_false]

/-- R161: the two intervals of a cell differ for a 1 and agree for a 0. -/
theorem bmcEncode_getLsbD_second_eq_xor (hn : n ≤ 32) (hi : i < n) : (bmcEncode bits n prev).1.getLsbD (2 * i + 1) =
    ((bmcEncode bits n prev).1.getLsbD (2 * i) ^^ bits.getLsbD i) := by
  rw [bmcEncode_getLsbD_second bits prev hn hi, bmcEncode_succ_snd bits prev (by omega),
    bmcEncode_getLsbD_first bits prev hn hi]

end

/-! ### `bmc_decode` -/

theorem bmcDecode_getLsbD (c : BitVec 64) {n : Nat} (hn : n ≤ 32) (i : Nat) : (bmcDecode c n).getLsbD i =
    if i < n then c.getLsbD (2 * i) ^^ c.getLsbD (2 * i + 1) else false := by
  rw [bmcDecode, packBits_getLsbD]
  split
  · next hi =>
    have h32 : i < 32 := by omega
    simp [hi, h32]
  · next hi => simp [hi]

/-- R167: decoding takes a cell's two intervals together, and encoding made them differ by the bit. -/
theorem bmcDecode_bmcEncode_getLsbD (bits : BitVec 32) (prev : Bool) {n : Nat} (hn : n ≤ 32) (i : Nat) :
    (bmcDecode (bmcEncode bits n prev).1 n).getLsbD i = if i < n then bits.getLsbD i else false := by
  rw [bmcDecode_getLsbD _ hn]
  split
  · next hi => rw [bmcEncode_getLsbD_second_eq_xor bits prev hn hi, ← Bool.xor_assoc, Bool.xor_self, Bool.false_xor]
  · rfl

theorem bmcDecode_bmcEncode {x : BitVec 32} {n : Nat} (hn : n ≤ 32) (hx : x.toNat < 2 ^ n) (prev : Bool) :
    bmcDecode (bmcEncode x n prev).1 n = x := by
  apply BitVec.eq_of_getLsbD_eq
  intro i _
  rw [bmcDecode_bmcEncode_getLsbD x prev hn]
  split
  · rfl
  · next hi => exact (getLsbD_eq_false_of_toNat_lt hx (by omega)).symm

end Sys2Proof.Proofs
end

section
/-! The commands `BMC.ENC` and `BMC.DEC` and their round trip (`43_channel_coder.md` R162, R165, R167). -/
namespace Sys2Proof.Proofs
open Sys2Proof Sys2Proof.Machine

theorem decode_bmcEnc (cmd : Cmd) (h : cmd.extractLsb' 88 8 = 0x50#8) : decode cmd =
    some (.bmcEnc (cmd.extractLsb' 0 32) (cmd.extractLsb' 64 6) (cmd.getLsbD 72)) := by
  simp (disch := decide) only [decode_of_opcodeByte .bmcEnc h, operandsOf, cmdA_extractLsb', cmdB_extractLsb',
    cmdB_getLsbD]

theorem decode_bmcDec (cmd : Cmd) (h : cmd.extractLsb' 88 8 = 0x51#8) :
    decode cmd = some (.bmcDec (cmd.extractLsb' 0 64) (cmd.extractLsb' 64 6)) := by
  simp (disch := decide) only [decode_of_opcodeByte .bmcDec h, operandsOf, cmdA, cmdB_extractLsb']

theorem lastLevelFlag_eq_ite (last : Bool) : lastLevelFlag last = if last then 1 else 0 := by cases last <;> rfl

theorem exec_bmcEnc_of_le {n : BitVec 6} (h : n.toNat ≤ 32) (bits : BitVec 32) (prev : Bool) (s : State) :
    exec (.bmcEnc bits n prev) s = .next (s.withRsp .ok (bmcEncode bits n.toNat prev).1 0
      (if (bmcEncode bits n.toNat prev).2 then 1 else 0)) := by
  rw [← lastLevelFlag_eq_ite]
  exact if_neg (Nat.not_lt.2 h)

theorem exec_bmcEnc_of_lt {n : BitVec 6} (h : 32 < n.toNat) (bits : BitVec 32) (prev : Bool) (s : State) :
    exec (.bmcEnc bits n prev) s = .next (s.withRsp .operandError 0 0 0) :=
  if_pos h

theorem exec_bmcDec_of_le {n : BitVec 6} (h : n.toNat ≤ 32) (c : BitVec 64) (s : State) :
    exec (.bmcDec c n) s = .next (s.withRsp .ok (zext64 (bmcDecode c n.toNat)) 0 0) :=
  if_neg (Nat.not_lt.2 h)

theorem exec_bmcDec_of_lt {n : BitVec 6} (h : 32 < n.toNat) (c : BitVec 64) (s : State) :
    exec (.bmcDec c n) s = .next (s.withRsp .operandError 0 0 0) :=
  if_pos h

/-- Settles O26: the level before cell `i` is the last level of the first `i` bits. -/
theorem bmcEncCodesCellByCell : Obligations.BmcEncCodesCellByCell := by
  unfold Obligations.BmcEncCodesCellByCell
  refine ⟨decode_bmcEnc, fun bits n prev s => ⟨fun hn => ?_, fun hn => exec_bmcEnc_of_lt hn bits prev s⟩⟩
  exact ⟨(bmcEncode bits n.toNat prev).1, fun i => (bmcEncode bits i prev).2, exec_bmcEnc_of_le hn bits prev s, rfl,
    fun i hi => ⟨bmcEncode_getLsbD_first bits prev hn hi, bmcEncode_getLsbD_second_eq_xor bits prev hn hi,
      (bmcEncode_getLsbD_second bits prev hn hi).symm⟩,
    fun j => bmcEncode_getLsbD_of_ge bits prev⟩

theorem zext64_bmcDecode_getLsbD (c : BitVec 64) {n : Nat} (hn : n ≤ 32) (i : Nat) :
    (zext64 (bmcDecode c n)).getLsbD i =
      if i < n then c.getLsbD (2 * i) ^^ c.getLsbD (2 * i + 1) else false := by
  rw [zext64, BitVec.getLsbD_setWidth, bmcDecode_getLsbD c hn]
  split
  · next hi =>
    have h64 : i < 64 := by omega
    rw [decide_eq_true h64, Bool.true_and]
  · rw [Bool.and_false]

/-- Settles O27: bit `i` is read from cell `i` alone, so no rule about the cells before it is needed. -/
theorem bmcDecReadsInsideEachCell : Obligations.BmcDecReadsInsideEachCell := by
  unfold Obligations.BmcDecReadsInsideEachCell
  exact ⟨decode_bmcDec, fun c n s => ⟨fun hn => ⟨_, exec_bmcDec_of_le hn c s, zext64_bmcDecode_getLsbD c hn⟩,
    fun hn => exec_bmcDec_of_lt hn c s⟩⟩

/-! ### Re-encoding -/

/-- The level on the line before cell `i` of a coded word that follows level `prev`. -/
def levelBefore (c : BitVec 64) (prev : Bool) (i : Nat) : Bool := if i = 0 then prev else c.getLsbD (2 * i - 1)

/-- R161: what `bmc_encode` returns is legal: the level before a cell is the last level of the cells before it. -/
theorem levelBefore_bmcEncode (bits : BitVec 32) (prev : Bool) {n i : Nat} (hn : n ≤ 32) (hi : i ≤ n) :
    levelBefore (bmcEncode bits n prev).1 prev i = (bmcEncode bits i prev).2 := by
  cases i with
  | zero => rfl
  | succ i => exact bmcEncode_getLsbD_second bits prev hn hi

section
variable {c : BitVec 64} {n : Nat} {prev : Bool} (hn : n ≤ 32)
  (hlegal : ∀ i, i < n → c.getLsbD (2 * i) = !levelBefore c prev i)
include hn hlegal

/-- Re-encoding follows a legal sequence level by level. -/
theorem bmcEncode_bmcDecode_snd {i : Nat} (hi : i ≤ n) :
    (bmcEncode (bmcDecode c n) i prev).2 = levelBefore c prev i := by
  induction i with
  | zero => rfl
  | succ i ih =>
    rw [bmcEncode_succ_snd _ _ (by omega), ih (by omega), bmcDecode_getLsbD c hn, if_pos (by omega),
      ← hlegal i (by omega), ← Bool.xor_assoc, Bool.xor_self, Bool.false_xor]
    rfl

theorem bmcEncode_bmcDecode (hpast : ∀ j, 2 * n ≤ j → c.getLsbD j = false) :
    (bmcEncode (bmcDecode c n) n prev).1 = c := by
  apply BitVec.eq_of_getLsbD_eq
  intro j _
  obtain hj | hj := Nat.lt_or_ge j (2 * n)
  · obtain ⟨i, rfl | rfl⟩ := Nat.even_or_odd' j
    · rw [bmcEncode_getLsbD_first _ _ hn (by omega), bmcEncode_bmcDecode_snd hn hlegal (by omega),
        hlegal i (by omega)]
    · rw [bmcEncode_getLsbD_second _ _ hn (by omega), bmcEncode_bmcDecode_snd hn hlegal (by omega)]
      rfl
  · rw [bmcEncode_getLsbD_of_ge _ _ hj, hpast j hj]

end

/-- Settles O28: decoding reads each bit back; re-encoding follows the levels of a legal sequence, and every output of
`bmc_encode` is one. -/
theorem bmcRoundTrip : Obligations.BmcRoundTrip := by
  unfold Obligations.BmcRoundTrip
  refine ⟨fun x n prev s hn hx => ⟨_, _, exec_bmcEnc_of_le hn x prev s, rfl, ?_⟩,
    fun c n prev hn => ⟨fun h => ?_, ?_⟩⟩
  · rw [exec_bmcDec_of_le hn, bmcDecode_bmcEncode hn hx, zext64_eq_ofNat]
  · rw [← h]
    refine ⟨fun j => bmcEncode_getLsbD_of_ge _ _, fun i hi => ?_⟩
    rw [bmcEncode_getLsbD_first _ _ hn hi, ← levelBefore_bmcEncode _ _ hn hi.le]
    rfl
  · rintro ⟨hpast, hlegal⟩
    exact bmcEncode_bmcDecode hn hlegal hpast

end Sys2Proof.Proofs
end

section
/-! The laws of the encoding (`43_channel_coder.md` R163): complement, last level, and the balance of high and low
intervals, which the level of the line bounds. -/
namespace Sys2Proof.Proofs
open Sys2Proof Sys2Proof.Machine

/-! ### Complement and last level -/

theorem bmcLast_not (lvl : Bool) (bs : List Bool) : bmcLast (!lvl) bs = !bmcLast lvl bs := by
  induction bs generalizing lvl with
  | nil => rfl
  | cons b bs ih => rw [bmcLast_cons, bmcLast_cons, ← ih, Bool.not_xor]

theorem bmcEncode_not_snd (bits : BitVec 32) (n : Nat) (prev : Bool) :
    (bmcEncode bits n (!prev)).2 = !(bmcEncode bits n prev).2 :=
  bmcLast_not prev _

theorem bmcEncode_not_getLsbD (bits : BitVec 32) (prev : Bool) {n j : Nat} (hn : n ≤ 32) (hj : j < 2 * n) :
    (bmcEncode bits n (!prev)).1.getLsbD j = !(bmcEncode bits n prev).1.getLsbD j := by
  obtain ⟨i, rfl | rfl⟩ := Nat.even_or_odd' j
  · rw [bmcEncode_getLsbD_first _ _ hn (by omega), bmcEncode_getLsbD_first _ _ hn (by omega), bmcEncode_not_snd]
  · rw [bmcEncode_getLsbD_second _ _ hn (by omega), bmcEncode_getLsbD_second _ _ hn (by omega), bmcEncode_not_snd]

theorem bmcLast_singleton (lvl b : Bool) : bmcLast lvl [b] = if b then lvl else !lvl := by
  cases lvl <;> cases b <;> rfl

/-- The number of 0 bits among the first `n`. -/
def zeroBits (bits : BitVec 32) (n : Nat) : Nat := (List.range n).countP fun i => !bits.getLsbD i

theorem zeroBits_succ (bits : BitVec 32) (n : Nat) :
    zeroBits bits (n + 1) = zeroBits bits n + (!bits.getLsbD n).toNat := by
  rw [zeroBits, List.range_succ, List.countP_append, List.countP_singleton]
  cases bits.getLsbD n <;> rfl

theorem decide_odd_add_toNat (z : Nat) (b : Bool) : decide ((z + b.toNat) % 2 = 1) = (decide (z % 2 = 1) ^^ b) := by
  obtain h | h := Nat.mod_two_eq_zero_or_one z <;> cases b <;> simp [Nat.add_mod, h]

/-- R163 (b): every 0 bit inverts the level. -/
theorem bmcEncode_snd_eq_xor (bits : BitVec 32) (prev : Bool) {n : Nat} (hn : n ≤ 32) :
    (bmcEncode bits n prev).2 = (prev ^^ decide (zeroBits bits n % 2 = 1)) := by
  induction n with
  | zero => exact (Bool.xor_false prev).symm
  | succ n ih =>
    rw [bmcEncode_succ_snd _ _ (by omega), ih (by omega), zeroBits_succ, decide_odd_add_toNat, ← Bool.xor_assoc,
      Bool.xor_not, Bool.not_xor]

/-! ### Disparity -/

/-- High intervals minus low intervals. -/
def disparity (xs : List Bool) : Int := xs.count true - xs.count false

/-- A high line has used up the +2 that a low line may still add. -/
def levelCharge (lvl : Bool) : Int := if lvl then 2 else 0

theorem disparity_cons (x : Bool) (xs : List Bool) : disparity (x :: xs) = (if x then 1 else -1) + disparity xs := by
  cases x <;> simp [disparity] <;> omega

/-- The two intervals of a cell change the disparity as they change the charge. -/
theorem levelCharge_cell (lvl b : Bool) :
    levelCharge lvl + (if !lvl then 1 else -1) + (if !lvl ^^ b then 1 else -1) = levelCharge (!lvl ^^ b) := by
  cases lvl <;> cases b <;> rfl

/-- R163 (c): over whole cells the disparity is the change of the line's charge. -/
theorem disparity_bmcIntervals (lvl : Bool) (bs : List Bool) :
    disparity (bmcIntervals lvl bs) = levelCharge (bmcLast lvl bs) - levelCharge lvl := by
  induction bs generalizing lvl with
  | nil => exact (Int.sub_self _).symm
  | cons b bs ih =>
    have hcell := levelCharge_cell lvl b
    rw [bmcIntervals, disparity_cons, disparity_cons, ih, bmcLast_cons]
    omega

/-- Cut anywhere, the charge of the start and the disparity since make 0 to 2: at a cell boundary they are the charge of
the line, in the middle of a cell they are 1. -/
theorem levelCharge_add_disparity_take (lvl : Bool) (bs : List Bool) (k : Nat) :
    0 ≤ levelCharge lvl + disparity ((bmcIntervals lvl bs).take k) ∧
    levelCharge lvl + disparity ((bmcIntervals lvl bs).take k) ≤ 2 := by
  induction bs generalizing lvl k with
  | nil => cases lvl <;> simp [bmcIntervals, disparity, levelCharge]
  | cons b bs ih =>
    match k with
    | 0 => cases lvl <;> simp [disparity, levelCharge]
    | 1 => cases lvl <;> simp [bmcIntervals, disparity, levelCharge]
    | k + 2 =>
      have hcell := levelCharge_cell lvl b
      have hrest := ih (!lvl ^^ b) k
      rw [bmcIntervals, List.take_succ_cons, List.take_succ_cons, disparity_cons, disparity_cons]
      omega

theorem disparity_take_bounds (lvl : Bool) (bs : List Bool) (k : Nat) :
    disparity ((bmcIntervals lvl bs).take k) ≤ 2 ∧ -2 ≤ disparity ((bmcIntervals lvl bs).take k) := by
  have hlvl : 0 ≤ levelCharge lvl ∧ levelCharge lvl ≤ 2 := by cases lvl <;> decide
  have hcut := levelCharge_add_disparity_take lvl bs k
  omega

/-! ### The disparity of a coded word -/

theorem bmcIntervals_eq_map_bmcEncode (bits : BitVec 32) (prev : Bool) {n : Nat} (hn : n ≤ 32) :
    bmcIntervals prev ((bitList bits).take n) =
      (List.range (2 * n)).map fun j => (bmcEncode bits n prev).1.getLsbD j := by
  have hlen : (bmcIntervals prev ((bitList bits).take n)).length = 2 * n := by simp [hn]
  apply List.ext_getElem (by rw [hlen, List.length_map, List.length_range])
  intro j hj _
  have hget := bmcIntervals_getElem?_eq_bmcEncode bits prev hn (hlen ▸ hj)
  rw [List.getElem?_eq_getElem hj] at hget
  rw [Option.some.inj hget, List.getElem_map, List.getElem_range]

theorem disparity_map_range (f : Nat → Bool) (k : Nat) :
    disparity ((List.range k).map f) = ((List.range k).countP f : Int) - (List.range k).countP fun j => !f j := by
  simp [disparity, List.count, List.countP_map, Function.comp_def]

/-- R163 (c): high intervals minus low intervals, from the number of 0 bits. -/
theorem bmcEncode_disparity (bits : BitVec 32) (prev : Bool) {n : Nat} (hn : n ≤ 32) :
    ((List.range (2 * n)).countP (fun j => (bmcEncode bits n prev).1.getLsbD j) : Int) -
      (List.range (2 * n)).countP (fun j => !(bmcEncode bits n prev).1.getLsbD j) =
      if zeroBits bits n % 2 = 0 then 0 else if prev then -2 else 2 := by
  have hlast : bmcLast prev ((bitList bits).take n) = (prev ^^ decide (zeroBits bits n % 2 = 1)) :=
    bmcEncode_snd_eq_xor bits prev hn
  rw [← disparity_map_range, ← bmcIntervals_eq_map_bmcEncode bits prev hn, disparity_bmcIntervals, hlast]
  obtain h | h := Nat.mod_two_eq_zero_or_one (zeroBits bits n) <;> rw [h] <;> cases prev <;> rfl

/-- Settles O29: each law is one about the level of the line, which a 0 bit inverts; the disparity since any start is
the change of the line's charge. -/
theorem bmcComplementLastLevelAndDisparity : Obligations.BmcComplementLastLevelAndDisparity := by
  unfold Obligations.BmcComplementLastLevelAndDisparity
  exact ⟨fun bits n prev hn => ⟨fun j => bmcEncode_not_getLsbD bits false hn, bmcEncode_not_snd bits n false,
      bmcEncode_snd_eq_xor bits prev hn, bmcEncode_disparity bits prev hn,
      fun j => bmcIntervals_getElem?_eq_bmcEncode bits prev hn⟩,
    bmcLast_singleton, fun lvl bs cs => (bmcIntervals_append lvl bs cs).symm, disparity_take_bounds⟩

end Sys2Proof.Proofs
end

section
/-! Runs and windows of the interval sequence (`43_channel_coder.md` R166): every cell boundary is a change of level,
and a window of eight intervals lies in the coding of five bits. -/
namespace Sys2Proof.Proofs
open Sys2Proof Sys2Proof.Machine Sys2Proof.Claims

/-! ### Runs -/

/-- The first interval of a cell is the inverse of the last interval of the cell before it. -/
theorem bmcIntervals_boundary_ne {lvl : Bool} {bs : List Bool} {m : Nat} {a b : Bool}
    (ha : (bmcIntervals lvl bs)[2 * m + 1]? = some a) (hb : (bmcIntervals lvl bs)[2 * m + 2]? = some b) : a ≠ b := by
  have hlen : m + 1 < bs.length := by
    have := (List.getElem?_eq_some_iff.1 hb).1
    rw [bmcIntervals_length] at this
    omega
  rw [(bmcIntervals_getElem?_cell lvl (by omega)).2] at ha
  rw [show 2 * m + 2 = 2 * (m + 1) from rfl, (bmcIntervals_getElem?_cell lvl hlen).1] at hb
  rw [← Option.some.inj ha, ← Option.some.inj hb]
  exact (Bool.not_ne_self _).symm

/-- Of three consecutive intervals two lie on either side of a cell boundary. -/
theorem bmcIntervals_no_three_equal (lvl : Bool) (bs : List Bool) (i : Nat) (a b c : Bool)
    (ha : (bmcIntervals lvl bs)[i]? = some a) (hb : (bmcIntervals lvl bs)[i + 1]? = some b)
    (hc : (bmcIntervals lvl bs)[i + 2]? = some c) : ¬ (a = b ∧ b = c) := by
  rintro ⟨hab, hbc⟩
  obtain ⟨m, rfl | rfl⟩ := Nat.even_or_odd' i
  · exact bmcIntervals_boundary_ne hb hc hbc
  · exact bmcIntervals_boundary_ne ha hb hab

/-! ### Windows -/

/-- The window that starts at a cell boundary or in the middle of a cell, in the coding of five bits. -/
def windowOfFive (lvl : Bool) (x : BitVec 5) (mid : Bool) : List Bool :=
  ((bmcIntervals lvl (bitList x)).drop mid.toNat).take 8

/-- Every window of the coding of five bits, once. -/
def windows : List (List Bool) :=
  ([false, true].flatMap fun lvl => (List.range 32).flatMap fun x =>
    [false, true].map (windowOfFive lvl (BitVec.ofNat 5 x))).dedup

theorem windowOfFive_mem_windows (lvl : Bool) (x : BitVec 5) (mid : Bool) : windowOfFive lvl x mid ∈ windows := by
  simp only [windows, List.mem_dedup, List.mem_flatMap, List.mem_map]
  exact ⟨lvl, by cases lvl <;> decide, x.toNat, List.mem_range.2 x.isLt, mid, by cases mid <;> decide,
    by rw [BitVec.ofNat_toNat, BitVec.setWidth_eq]⟩

theorem isWindow_windowOfFive (lvl : Bool) (x : BitVec 5) (mid : Bool) : isWindow (windowOfFive lvl x mid) := by
  refine ⟨?_, lvl, bitList x, mid.toNat, rfl⟩
  have := mid.toNat_le
  simp [windowOfFive]
  omega

/-- Bits coded before the window leave the level it starts from. -/
theorem drop_bmcIntervals (lvl : Bool) (bs : List Bool) {m : Nat} (hm : m ≤ bs.length) (j : Nat) :
    (bmcIntervals lvl bs).drop (2 * m + j) =
      (bmcIntervals (bmcLast lvl (bs.take m)) (bs.drop m)).drop j := by
  have hlen : (bmcIntervals lvl (bs.take m)).length = 2 * m := by simp [hm]
  conv_lhs => rw [← List.take_append_drop m bs, bmcIntervals_append]
  rw [← List.drop_drop, List.drop_left' hlen]

/-- Bits coded after the window do not change it. -/
theorem take_drop_bmcIntervals_append (lvl : Bool) {bs : List Bool} {j k : Nat} (h : j + k ≤ 2 * bs.length)
    (cs : List Bool) :
    ((bmcIntervals lvl (bs ++ cs)).drop j).take k = ((bmcIntervals lvl bs).drop j).take k := by
  rw [bmcIntervals_append, List.drop_append_of_le_length (by simp; omega),
    List.take_append_of_le_length (by simp; omega)]

theorem bitList_packBits {w : Nat} {bs : List Bool} (h : bs.length = w) : bitList (packBits w bs) = bs :=
  packBits_inj (bitList_length _) h (packBits_bitList _)

/-- A window within a cell of the start lies in the coding of five bits. -/
theorem exists_windowOfFive (lvl : Bool) (bs : List Bool) (mid : Bool) (h : mid.toNat + 8 ≤ 2 * bs.length) :
    ∃ x, ((bmcIntervals lvl bs).drop mid.toNat).take 8 = windowOfFive lvl x mid := by
  have hmid := mid.toNat_le
  obtain ⟨five, rest, hfive, hsplit⟩ : ∃ five rest, five.length = 5 ∧ bs ++ [false] = five ++ rest :=
    ⟨(bs ++ [false]).take 5, (bs ++ [false]).drop 5, by simp; omega, (List.take_append_drop 5 _).symm⟩
  refine ⟨packBits 5 five, ?_⟩
  rw [windowOfFive, bitList_packBits hfive, ← take_drop_bmcIntervals_append lvl h [false], hsplit]
  exact take_drop_bmcIntervals_append lvl (by omega) rest

theorem mem_windows_of_isWindow {w : List Bool} (h : isWindow w) : w ∈ windows := by
  obtain ⟨hlen, lvl, bs, k, rfl⟩ := h
  obtain ⟨m, mid, rfl⟩ : ∃ m, ∃ mid : Bool, k = 2 * m + mid.toNat := by
    obtain ⟨m, hk | hk⟩ := Nat.even_or_odd' k
    · exact ⟨m, false, hk⟩
    · exact ⟨m, true, hk⟩
  have hlong : 2 * m + mid.toNat + 8 ≤ 2 * bs.length := by
    simp at hlen
    omega
  rw [drop_bmcIntervals lvl bs (by omega)]
  obtain ⟨x, hx⟩ := exists_windowOfFive (bmcLast lvl (bs.take m)) (bs.drop m) mid (by rw [List.length_drop]; omega)
  rw [hx]
  exact windowOfFive_mem_windows _ x mid

theorem mem_windows_iff (w : List Bool) : w ∈ windows ↔ isWindow w := by
  refine ⟨fun h => ?_, mem_windows_of_isWindow⟩
  simp only [windows, List.mem_dedup, List.mem_flatMap, List.mem_map] at h
  obtain ⟨lvl, -, x, -, mid, -, rfl⟩ := h
  exact isWindow_windowOfFive lvl _ mid

theorem windows_length : windows.length = 46 := by decide +kernel

/-- R166: neither a preamble nor a complement of one is among the windows. -/
theorem preambles_not_mem_windows : ∀ p ∈ ([0xE2, 0xE4, 0xE8, 0x1D, 0x1B, 0x17] : List Byte),
    (List.range 8).map p.getLsbD ∉ windows ∧ ((List.range 8).map p.getLsbD).reverse ∉ windows := by decide +kernel

/-- Settles O30: a boundary between cells breaks every run of three; the windows are those of five coded bits, which are
listed and counted. -/
theorem codedDataHasNoThreeEqualIntervals : Obligations.CodedDataHasNoThreeEqualIntervals := by
  unfold Obligations.CodedDataHasNoThreeEqualIntervals
  refine ⟨fun bits n prev hn j => bmcIntervals_getElem?_eq_bmcEncode bits prev hn,
    fun lvl bs cs => (bmcIntervals_append lvl bs cs).symm, bmcIntervals_no_three_equal,
    ⟨windows, List.nodup_dedup _, windows_length, mem_windows_iff⟩, rfl, fun p hp => ?_⟩
  obtain ⟨hfwd, hrev⟩ := preambles_not_mem_windows p hp
  exact ⟨fun h => hfwd ((mem_windows_iff _).2 h), fun h => hrev ((mem_windows_iff _).2 h)⟩

end Sys2Proof.Proofs
end

section
/-! `SF.LINE` (`43_channel_coder.md` R168): the preamble passed through, the payload coded after it, and the line of a
subframe built with auto-parity. -/
namespace Sys2Proof.Proofs
open Sys2Proof Sys2Proof.Machine Sys2Proof.Claims

theorem decode_sfLine (cmd : Cmd) (h : cmd.extractLsb' 88 8 = 0x52#8) :
    decode cmd = some (.sfLine (cmd.extractLsb' 0 64)) := by
  simp only [decode_of_opcodeByte .sfLine h, operandsOf, cmdA]

theorem linePayload_getLsbD (sf : Subframe) {i : Nat} (hi : i < 28) :
    (linePayload sf).getLsbD i = sf.getLsbD (8 + 2 * i) := by
  have h32 : i < 32 := by omega
  rw [linePayload, packBits_getLsbD, decide_eq_true h32, Bool.true_and, List.getElem?_map, List.getElem?_range hi,
    show 8 + 2 * i = 2 * (i + 4) by omega]
  rfl

/-! ### The line -/

theorem lineCode_getLsbD_preamble (sf : Subframe) {j : Nat} (hj : j < 8) :
    (lineCode sf).1.getLsbD j = sf.getLsbD j := by
  have h64 : j < 64 := by omega
  simp [lineCode, hj, h64]

theorem lineCode_getLsbD_payload (sf : Subframe) {j : Nat} (hj : j < 56) :
    (lineCode sf).1.getLsbD (8 + j) = (bmcEncode (linePayload sf) 28 (sf.getLsbD 7)).1.getLsbD j := by
  have h64 : 8 + j < 64 := by omega
  simp [lineCode, h64, -BitVec.getLsbD_eq_getElem]

/-- The interval before cell `i` of the line has the last level of the payload bits before it, or of the preamble. -/
theorem lineCode_getLsbD_level (sf : Subframe) {i : Nat} (hi : i ≤ 28) :
    (lineCode sf).1.getLsbD (7 + 2 * i) = (bmcEncode (linePayload sf) i (sf.getLsbD 7)).2 := by
  cases i with
  | zero => exact lineCode_getLsbD_preamble sf (by decide)
  | succ i =>
    rw [show 7 + 2 * (i + 1) = 8 + (2 * i + 1) by omega, lineCode_getLsbD_payload sf (by omega),
      bmcEncode_getLsbD_second _ _ (by decide) hi]

theorem lineCode_cell (sf : Subframe) {i : Nat} (hi : i < 28) :
    (lineCode sf).1.getLsbD (8 + 2 * i) = (!(lineCode sf).1.getLsbD (7 + 2 * i)) ∧
    (lineCode sf).1.getLsbD (9 + 2 * i) = ((lineCode sf).1.getLsbD (8 + 2 * i) ^^ sf.getLsbD (8 + 2 * i)) := by
  have hsecond := bmcEncode_getLsbD_second_eq_xor (linePayload sf) (sf.getLsbD 7) (n := 28) (by decide) hi
  rw [show 9 + 2 * i = 8 + (2 * i + 1) by omega, lineCode_getLsbD_payload sf (by omega),
    lineCode_getLsbD_payload sf (by omega), lineCode_getLsbD_level sf hi.le]
  exact ⟨bmcEncode_getLsbD_first _ _ (by decide) hi, by rw [hsecond, linePayload_getLsbD sf hi]⟩

theorem lineCode_getLsbD_last (sf : Subframe) : (lineCode sf).1.getLsbD 63 = (lineCode sf).2 := by
  rw [show 63 = 7 + 2 * 28 from rfl, lineCode_getLsbD_level sf le_rfl]
  rfl

theorem exec_sfLine (sf : Subframe) (s : State) : exec (.sfLine sf) s =
    .next (s.withRsp .ok (lineCode sf).1 0 (if (lineCode sf).1.getLsbD 63 then 1 else 0)) := by
  rw [lineCode_getLsbD_last, ← lastLevelFlag_eq_ite]
  rfl

/-! ### Subframes built with auto-parity -/

theorem countP_range_add_countP_not (f : Nat → Bool) (k : Nat) :
    (List.range k).countP f + (List.range k).countP (fun j => !f j) = k := by
  simpa [List.count, List.countP_map, Function.comp_def] using
    List.count_true_add_count_false ((List.range k).map f)

/-- The 28 payload bits are ones or zeros. -/
theorem dataOnes_add_zeroBits (sf : Subframe) : dataOnes sf + zeroBits (linePayload sf) 28 = 28 := by
  have hones : dataOnes sf = (List.range 28).countP fun i => (linePayload sf).getLsbD i := by
    refine List.countP_congr fun i hi => ?_
    rw [linePayload_getLsbD sf (List.mem_range.1 hi), show 2 * (i + 4) = 8 + 2 * i by omega]
  rw [hones]
  exact countP_range_add_countP_not _ 28

/-- The high intervals of the line are those of the preamble and those of the payload. -/
theorem countP_lineCode (sf : Subframe) : (List.range 64).countP (fun j => (lineCode sf).1.getLsbD j) =
    (List.range 8).countP (fun j => sf.getLsbD j) +
      (List.range (2 * 28)).countP fun j => (bmcEncode (linePayload sf) 28 (sf.getLsbD 7)).1.getLsbD j := by
  have hsplit : List.range 64 = List.range 8 ++ (List.range (2 * 28)).map (8 + ·) := List.range_add (m := 2 * 28)
  have hpreamble : (List.range 8).countP (fun j => (lineCode sf).1.getLsbD j) =
      (List.range 8).countP fun j => sf.getLsbD j :=
    List.countP_congr fun j hj => by rw [lineCode_getLsbD_preamble sf (List.mem_range.1 hj)]
  rw [hsplit, List.countP_append, List.countP_map, hpreamble, Nat.add_left_cancel_iff]
  exact List.countP_congr fun j hj => by rw [Function.comp_apply, lineCode_getLsbD_payload sf (List.mem_range.1 hj)]

section
variable {sf : Subframe} (heven : dataOnes sf % 2 = 0)
include heven

theorem zeroBits_linePayload_even : zeroBits (linePayload sf) 28 % 2 = 0 := by
  have := dataOnes_add_zeroBits sf
  omega

/-- An even payload returns the line to the level the preamble left. -/
theorem lineCode_getLsbD_last_of_even : (lineCode sf).1.getLsbD 63 = sf.getLsbD 7 := by
  rw [lineCode_getLsbD_level sf (i := 28) le_rfl, bmcEncode_snd_eq_xor _ _ (by decide),
    zeroBits_linePayload_even heven]
  exact Bool.xor_false _

/-- An even payload has as many high intervals as low ones. -/
theorem countP_payload_of_even :
    (List.range (2 * 28)).countP (fun j => (bmcEncode (linePayload sf) 28 (sf.getLsbD 7)).1.getLsbD j) = 28 := by
  have hdisp := bmcEncode_disparity (linePayload sf) (sf.getLsbD 7) (n := 28) (by decide)
  have hall := countP_range_add_countP_not
    (fun j => (bmcEncode (linePayload sf) 28 (sf.getLsbD 7)).1.getLsbD j) (2 * 28)
  rw [zeroBits_linePayload_even heven, if_pos rfl] at hdisp
  omega

end

/-- X, Y and Z start low and end high, with four high intervals (`42_subframe_assembler.md` R147). -/
theorem preamble_levels : ∀ pre ∈ ([0xE2, 0xE4, 0xE8] : List Byte),
    pre.getLsbD 0 = false ∧ pre.getLsbD 7 = true ∧ (List.range 8).countP (fun j => pre.getLsbD j) = 4 := by decide

/-- R168, corner case (a). -/
theorem lineCode_of_autoParity (aw : AudioWord) (v u c : Bool) {pre : Byte}
    (hpre : pre ∈ ([0xE2, 0xE4, 0xE8] : List Byte)) :
    (lineCode (sfBuild aw v u c pre true)).1.getLsbD 0 = false ∧
    (lineCode (sfBuild aw v u c pre true)).1.getLsbD 63 = true ∧
    (List.range 64).countP (fun j => (lineCode (sfBuild aw v u c pre true)).1.getLsbD j) = 32 := by
  obtain ⟨hlow, hhigh, hfour⟩ := preamble_levels pre hpre
  have heven := dataOnes_sfBuild_true_even aw v u c pre
  have hcount : (List.range 8).countP (fun j => (sfBuild aw v u c pre true).getLsbD j) = 4 := by
    rw [← hfour]
    exact List.countP_congr fun j hj => by rw [sfBuild_getLsbD_preamble _ _ _ _ _ _ (List.mem_range.1 hj)]
  refine ⟨?_, ?_, ?_⟩
  · rw [lineCode_getLsbD_preamble _ (by decide), sfBuild_getLsbD_preamble _ _ _ _ _ _ (by decide), hlow]
  · rw [lineCode_getLsbD_last_of_even heven, sfBuild_getLsbD_preamble _ _ _ _ _ _ (by decide), hhigh]
  · rw [countP_lineCode, hcount, countP_payload_of_even heven]

/-- Settles O31: the line is the preamble and the coded payload; auto-parity makes the payload even, which returns the
line to the preamble's last level. Corner case (b): audio word 1 without auto-parity, and preamble 0x00, end low. -/
theorem sfLineCodesThePayload : Obligations.SfLineCodesThePayload := by
  unfold Obligations.SfLineCodesThePayload
  refine ⟨decode_sfLine, ⟨1, false, false, false, by decide +kernel⟩,
    ⟨0x00, 0, false, false, false, by decide +kernel⟩, fun sf s => ⟨(lineCode sf).1, exec_sfLine sf s,
      fun j => lineCode_getLsbD_preamble sf, fun i => lineCode_cell sf, fun aw v u c pre hpre hsf => ?_⟩⟩
  rw [hsf]
  exact lineCode_of_autoParity aw v u c hpre

end Sys2Proof.Proofs
end

section
/-! `FA.STEP` (`44_frame_block.md` R180): its flags as bits and as a number, the preamble and the record bit in the
subframes it answers (R183, R186), and the whole command. -/
namespace Sys2Proof.Proofs
open Sys2Proof Sys2Proof.Machine Sys2Proof.Claims

theorem decode_faStep (cmd : Cmd) (h : cmd.extractLsb' 88 8 = 0x60#8) : decode cmd = some
    (.faStep (cmd.extractLsb' 0 32) (cmd.getLsbD 64) (cmd.getLsbD 65) (cmd.extractLsb' 32 32) (cmd.getLsbD 66)
      (cmd.getLsbD 67)) := by
  simp (disch := decide) only [decode_of_opcodeByte .faStep h, operandsOf, cmdA_extractLsb', cmdB_getLsbD]

/-! ### The flags -/

theorem bitWord_beq_toNat (m n : Nat) : (bitWord 16 (m == n)).toNat = if m = n then 1 else 0 := by
  by_cases h : m = n
  · simp [bitWord, h]
  · simp [bitWord, h, beq_false_of_ne h]

/-- The index and the two marks do not overlap, so they are put together by addition. -/
theorem frameFlags_toNat (f : Fin 192) : (frameFlags f).toNat =
    f.val + (if f.val = 0 then 256 else 0) + (if f.val = 191 then 512 else 0) := by
  have hf : (BitVec.ofNat 16 f.val).toNat = f.val := by
    rw [BitVec.toNat_ofNat]
    omega
  have hstart := bitWord_beq_toNat f.val 0
  have hdone := bitWord_beq_toNat f.val 191
  have hlow : (BitVec.ofNat 16 f.val ||| bitWord 16 (f.val == 0) <<< 8).toNat =
      f.val + 2 ^ 8 * (bitWord 16 (f.val == 0)).toNat := by
    rw [toNat_or_shiftLeft (by omega) (by rw [hstart]; split <;> decide), hf]
  rw [frameFlags, toNat_or_shiftLeft (by rw [hlow, hstart]; split <;> omega) (by rw [hdone]; split <;> decide), hlow,
    hstart, hdone]
  split <;> split <;> rfl

theorem frameFlags_eq_ofNat (f : Fin 192) : frameFlags f =
    BitVec.ofNat 16 (f.val + (if f.val = 0 then 256 else 0) + (if f.val = 191 then 512 else 0)) := by
  rw [← frameFlags_toNat, BitVec.ofNat_toNat, BitVec.setWidth_eq]

theorem frameFlags_index (f : Fin 192) : (frameFlags f).extractLsb' 0 8 = BitVec.ofNat 8 f.val := by
  apply BitVec.eq_of_toNat_eq
  rw [BitVec.extractLsb'_toNat, Nat.shiftRight_zero, frameFlags_toNat, BitVec.toNat_ofNat]
  split <;> split <;> omega

theorem frameFlags_blockStart (f : Fin 192) : (frameFlags f).getLsbD 8 = decide (f.val = 0) := by
  rw [← BitVec.testBit_toNat, Nat.testBit_eq_decide_div_mod_eq, frameFlags_toNat, decide_eq_decide]
  split <;> split <;> omega

theorem frameFlags_blockDone (f : Fin 192) : (frameFlags f).getLsbD 9 = decide (f.val = 191) := by
  rw [← BitVec.testBit_toNat, Nat.testBit_eq_decide_div_mod_eq, frameFlags_toNat, decide_eq_decide]
  split <;> split <;> omega

/-! ### The subframes -/

theorem sfBuild_preamble (aw : AudioWord) (v u c : Bool) (pre : Byte) (ap : Bool) :
    (sfBuild aw v u c pre ap).extractLsb' 0 8 = pre := by
  apply BitVec.eq_of_getLsbD_eq
  intro i hi
  rw [BitVec.getLsbD_extractLsb', decide_eq_true hi, Bool.true_and, Nat.zero_add,
    sfBuild_getLsbD_preamble _ _ _ _ _ _ hi]

/-- Slot 30 holds the channel-status bit in both its positions. -/
theorem slot_sfBuild_30 (aw : AudioWord) (v u c : Bool) (pre : Byte) (ap : Bool) :
    slot (sfBuild aw v u c pre ap) 30 = if c then 0b11 else 0b00 := by
  obtain ⟨h60, h61⟩ := sfBuild_getLsbD_status aw v u c pre ap (k := 2) (by decide)
  apply BitVec.eq_of_getLsbD_eq
  intro i hi
  rw [slot, BitVec.getLsbD_extractLsb', decide_eq_true hi, Bool.true_and]
  obtain rfl | rfl : i = 0 ∨ i = 1 := by omega
  · refine h60.trans ?_
    cases c <;> rfl
  · refine h61.trans ?_
    cases c <;> rfl

section
variable (s : State) (e : Encoded) (user : Bool) (ch : Channel)

theorem frameSubframe_preamble : (frameSubframe s e user ch).extractLsb' 0 8 = preambleFor s.faFrame ch :=
  sfBuild_preamble ..

theorem slot_frameSubframe_30 :
    slot (frameSubframe s e user ch) 30 = if csBit s.csRec s.faFrame.val then 0b11 else 0b00 :=
  slot_sfBuild_30 ..

theorem lbit_frameSubframe_30 : lbit (frameSubframe s e user ch) 30 = csBit s.csRec s.faFrame.val :=
  (sfBuild_getLsbD_status _ _ _ _ _ _ (k := 2) (by decide)).1

end

/-- R146 for channel A, with the constants of R147. -/
theorem preambleFor_a (f : Fin 192) : preambleFor f .a = if f.val = 0 then 0xE8 else 0xE2 := rfl

/-! ### The command -/

theorem ofNat_audioNat (w : WordLength) (x : Sample) : BitVec.ofNat 24 (audioNat w.toNat x) = seJustifyAudio x w := by
  rw [← seJustifyAudio_toNat, BitVec.ofNat_toNat, BitVec.setWidth_eq]

/-- Settles O33: each sample is accepted or refused; what an accepted one is encoded to is its justified audio word. -/
theorem faStepBuildsTheNextFrame : Obligations.FaStepBuildsTheNextFrame := by
  unfold Obligations.FaStepBuildsTheNextFrame
  refine ⟨decode_faStep, fun xA vA uA xB vB uB s => ⟨fun hA hB => ?_, fun hA => ?_, fun hA hB => ?_⟩⟩
  · rw [ofNat_audioNat, ofNat_audioNat, ← frameFlags_eq_ofNat]
    exact execFaStep_of_encoded (seEncode_of_accepted hA vA) (seEncode_of_accepted hB vB)
  · exact execFaStep_of_refused_a (seEncode_of_not_accepted hA vA)
  · exact execFaStep_of_refused_b (seEncode_of_accepted hA vA) (seEncode_of_not_accepted hB vB)

/-- The next state answers the frame of the counter, and the counter has advanced. -/
def AnswersFrame (s t : State) : Prop :=
  t.faFrame = nextFrame s.faFrame ∧ ∃ eA uA eB uB, t.rsp =
    some ⟨.ok, frameSubframe s eA uA .a, frameSubframe s eB uB .b, frameFlags s.faFrame⟩

theorem AnswersFrame.rsp_ok {s t : State} (h : AnswersFrame s t) : t.rsp.map Response.st = some .ok := by
  obtain ⟨-, eA, uA, eB, uB, hrsp⟩ := h
  rw [hrsp]
  rfl

/-- What `FA.STEP` does to the counter: refused, nothing; otherwise it answers the frame. The inputs to come stay. -/
theorem execFaStep_cases {xA : Sample} {vA uA : Bool} {xB : Sample} {vB uB : Bool} {s t : State}
    (h : execFaStep xA vA uA xB vB uB s = .next t) :
    (∃ info, t = s.withRsp .rangeError 0 0 info) ∨ (t.inputs = s.inputs ∧ AnswersFrame s t) := by
  cases hA : seEncode s.seCfg xA vA with
  | none => exact .inl ⟨_, raise_eq_next ((execFaStep_of_refused_a hA).symm.trans h)⟩
  | some eA =>
    cases hB : seEncode s.seCfg xB vB with
    | none => exact .inl ⟨_, raise_eq_next ((execFaStep_of_refused_b hA hB).symm.trans h)⟩
    | some eB =>
      obtain rfl := respond_eq_next ((execFaStep_of_encoded hA hB).symm.trans h)
      exact .inr ⟨rfl, rfl, eA, uA, eB, uB, rfl⟩

/-- `CS.WRB` of the byte that holds record bit `n` makes that bit the one written. -/
theorem csBit_of_exec_csWrb {s t : State} {n : Nat} {v : Byte} (hs : s.csRec.wf) (hn : n < 192)
    (h : exec (.csWrb (BitVec.ofNat 5 (n / 8)) v) s = .next t) :
    csBit t.csRec n = v.getLsbD (n % 8) ∧ t.faFrame = s.faFrame := by
  have hindex : (BitVec.ofNat 5 (n / 8)).toNat = n / 8 := by
    rw [BitVec.toNat_ofNat]
    omega
  have hle : (BitVec.ofNat 5 (n / 8)).toNat ≤ 23 := by omega
  obtain rfl := Host.Outcome.next.inj ((exec_csWrb_of_le hle v s).symm.trans h)
  rw [csBit, hindex]
  exact ⟨congrArg (·.getLsbD (n % 8)) (Memory.read_write_self hs _ _), rfl⟩

/-- Settles O35: slot 30 of either subframe is made of the one record bit read at the step, after any write before. -/
theorem frameCarriesTheLiveRecordBit : Obligations.FrameCarriesTheLiveRecordBit := by
  unfold Obligations.FrameCarriesTheLiveRecordBit
  intro xA vA uA xB vB uB s t r h hr hok
  obtain ⟨info, rfl⟩ | ⟨-, -, eA, userA, eB, userB, hrsp⟩ := execFaStep_cases h
  · obtain rfl := Option.some.inj hr
    cases hok
  · obtain rfl := Option.some.inj (hrsp.symm.trans hr)
    refine ⟨slot_frameSubframe_30 .., (slot_frameSubframe_30 ..).trans (slot_frameSubframe_30 ..).symm,
      fun v s0 hs0 hw => ?_⟩
    obtain ⟨hbit, hframe⟩ := csBit_of_exec_csWrb hs0 s0.faFrame.isLt hw
    rw [slot_frameSubframe_30, hframe, hbit]

end Sys2Proof.Proofs
end

section
/-! The frame counter over steps (`44_frame_block.md` R184) and the block alignment law (R185). -/
namespace Sys2Proof.Proofs
open Sys2Proof Sys2Proof.Machine Sys2Proof.Claims

/-! ### Commands other than `FA.STEP` -/

/-- The outcome goes on with the frame counter of `s`, and with the inputs to come of `s`. -/
def KeepsFrameAndInputs (s : State) (o : Host.Outcome State Fault Refusal) : Prop :=
  (nextOf o).map (fun t => (t.faFrame, t.inputs)) = some (s.faFrame, s.inputs)

theorem AnswersFromRecord.keepsFrameAndInputs {e : State → Host.Outcome State Fault Refusal}
    (he : AnswersFromRecord e) (s : State) : KeepsFrameAndInputs s (e s) := by
  obtain ⟨f, hf⟩ := he
  rw [hf]
  rfl

theorem keepsFrameAndInputs_ite {c : Prop} [Decidable c] {s : State} {o o' : Host.Outcome State Fault Refusal}
    (h : KeepsFrameAndInputs s o) (h' : KeepsFrameAndInputs s o') : KeepsFrameAndInputs s (if c then o else o') := by
  split <;> assumption

theorem execSeCfg_keepsFrameAndInputs (wl : BitVec 5) (pe : BitVec 3) (av vi : Bool) (s : State) :
    KeepsFrameAndInputs s (execSeCfg wl pe av vi s) := by
  unfold execSeCfg
  split
  · rfl
  · split <;> rfl

theorem execSeEnc_keepsFrameAndInputs (x : Sample) (v : Bool) (s : State) :
    KeepsFrameAndInputs s (execSeEnc x v s) := by
  unfold execSeEnc
  split <;> rfl

theorem execSeVrange_keepsFrameAndInputs (x : Sample) (wl : BitVec 5) (s : State) :
    KeepsFrameAndInputs s (execSeVrange x wl s) := by
  unfold execSeVrange
  split
  · rfl
  · split <;> rfl

/-- R184: "no command sets it to a chosen value". -/
theorem exec_keepsFrameAndInputs {i : Instr} (hi : ∀ xA vA uA xB vB uB, i ≠ .faStep xA vA uA xB vB uB) (s : State) :
    KeepsFrameAndInputs s (exec i s) := by
  cases i with
  | faStep xA vA uA xB vB uB => exact absurd rfl (hi xA vA uA xB vB uB)
  | seCfg wl pe av vi => exact execSeCfg_keepsFrameAndInputs wl pe av vi s
  | seEnc x v => exact execSeEnc_keepsFrameAndInputs x v s
  | seVrange x wl => exact execSeVrange_keepsFrameAndInputs x wl s
  | csWrb | csSetPro | csSetPcm | csSetEmph | csSetLock | csSetFs | csSetAux | csSetWlen | csSetAlign | bmcEnc
  | bmcDec => exact keepsFrameAndInputs_ite rfl rfl
  | csRdb | csCrc | csVal | csGetPro | csGetPcm | csGetEmph | csGetLock | csGetFs | csGetAux | csGetWlen
  | csGetAlign => exact (exec_answersFromRecord rfl).keepsFrameAndInputs s
  | seEnc16 | seEnc24p | seEmarst | seEmard | csClr | saCfg | saBuild | sfLine => rfl

theorem faFrame_inputs_of_exec {i : Instr} (hi : ∀ xA vA uA xB vB uB, i ≠ .faStep xA vA uA xB vB uB) {s t : State}
    (h : exec i s = .next t) : t.faFrame = s.faFrame ∧ t.inputs = s.inputs := by
  simpa [KeepsFrameAndInputs, h, nextOf] using exec_keepsFrameAndInputs hi s

/-! ### Steps -/

theorem portAction_eq_reset_iff (p : PortIn) : portAction p = .reset ↔ p.rst = true := by
  unfold portAction
  split
  · simpa
  · next hrst =>
    split
    · split <;> simpa using hrst
    · simpa using hrst

theorem builtFrame_eq_false {s : State}
    (h : ∀ xA vA uA xB vB uB, portAction s.portIn ≠ .command (.faStep xA vA uA xB vB uB)) (t : State) :
    builtFrame s t = false := by
  unfold builtFrame
  split
  · next hact => exact absurd hact (h _ _ _ _ _ _)
  · rfl

theorem builtFrame_of_faStep {s : State} {xA : Sample} {vA uA : Bool} {xB : Sample} {vB uB : Bool}
    (h : portAction s.portIn = .command (.faStep xA vA uA xB vB uB)) (t : State) :
    builtFrame s t = (t.rsp.map Response.st == some .ok) := by
  rw [builtFrame, h]

theorem step_of_reset {s : State} (h : s.portIn.rst = true) : step s = .next (resetStep s.advanced) := by
  rw [step, (portAction_eq_reset_iff _).2 h]

theorem builtFrame_of_reset {s : State} (h : s.portIn.rst = true) (t : State) : builtFrame s t = false :=
  builtFrame_eq_false (by simp [(portAction_eq_reset_iff _).2 h]) t

/-- Everything a step without reset can do to the counter: it takes one input, and answers the frame of the counter or
leaves the counter alone. -/
theorem step_builds_or_keeps {s t : State} (hrst : s.portIn.rst = false) (h : step s = .next t) :
    t.inputs = s.inputs.tail ∧
    ((builtFrame s t = true ∧ AnswersFrame s t) ∨ (builtFrame s t = false ∧ t.faFrame = s.faFrame)) := by
  cases hact : portAction s.portIn with
  | reset => simp [(portAction_eq_reset_iff _).1 hact] at hrst
  | idle =>
    rw [step, hact] at h
    obtain rfl := Host.Outcome.next.inj h
    exact ⟨rfl, .inr ⟨builtFrame_eq_false (by simp [hact]) _, rfl⟩⟩
  | illegal =>
    rw [step, hact] at h
    obtain rfl := raise_eq_next h
    exact ⟨rfl, .inr ⟨builtFrame_eq_false (by simp [hact]) _, rfl⟩⟩
  | command i =>
    rw [step, hact] at h
    by_cases hi : ∀ xA vA uA xB vB uB, i ≠ .faStep xA vA uA xB vB uB
    · obtain ⟨hframe, hinputs⟩ := faFrame_inputs_of_exec hi h
      exact ⟨hinputs, .inr ⟨builtFrame_eq_false (by simpa [hact] using hi) t, hframe⟩⟩
    · push Not at hi
      obtain ⟨xA, vA, uA, xB, vB, uB, rfl⟩ := hi
      obtain ⟨info, rfl⟩ | ⟨hinputs, hans⟩ := execFaStep_cases h
      · exact ⟨rfl, .inr ⟨by rw [builtFrame_of_faStep hact]; rfl, rfl⟩⟩
      · exact ⟨hinputs, .inl ⟨by simp [builtFrame_of_faStep hact, hans.rsp_ok], hans⟩⟩

/-- A step that built a frame was no reset and answered the frame of the counter. -/
theorem answersFrame_of_builtFrame {s t : State} (h : step s = .next t) (hbuilt : builtFrame s t = true) :
    s.portIn.rst = false ∧ AnswersFrame s t := by
  have hrst : s.portIn.rst = false := by
    by_contra hne
    rw [Bool.not_eq_false] at hne
    simp [builtFrame_of_reset hne] at hbuilt
  obtain ⟨-, ⟨-, hans⟩ | ⟨hno, -⟩⟩ := step_builds_or_keeps hrst h
  · exact ⟨hrst, hans⟩
  · simp [hno] at hbuilt

/-- Settles O36: a reset clears the counter, and every other step builds a frame or keeps the counter. -/
theorem frameCounterAdvancesOnlyByFaStep : Obligations.FrameCounterAdvancesOnlyByFaStep := by
  unfold Obligations.FrameCounterAdvancesOnlyByFaStep
  intro s t h
  refine ⟨fun hrst => ?_, fun hbuilt => ?_, fun hrst hno => ?_⟩
  · obtain rfl := Host.Outcome.next.inj ((step_of_reset hrst).symm.trans h)
    rfl
  · obtain ⟨hrst, hframe, eA, uA, eB, uB, hrsp⟩ := answersFrame_of_builtFrame h hbuilt
    exact ⟨hrst, congrArg Fin.val hframe, _, hrsp, frameFlags_blockStart _, frameFlags_blockDone _⟩
  · obtain ⟨-, ⟨hbuilt, -⟩ | ⟨-, hframe⟩⟩ := step_builds_or_keeps hrst h
    · simp [hno] at hbuilt
    · exact hframe

/-! ### Runs of steps -/

theorem portIn_rst_of_inputs {s : State} (h : ∀ p ∈ s.inputs, p.rst = false) : s.portIn.rst = false := by
  unfold State.portIn
  cases hin : s.inputs with
  | nil => rfl
  | cons p ps => exact h p (by simp [hin])

/-- A step without reset advances the counter by the number of frames it built. -/
theorem faFrame_of_step {s t : State} (hrst : s.portIn.rst = false) (h : step s = .next t) :
    t.faFrame.val = (s.faFrame.val + (builtFrame s t).toNat) % 192 := by
  obtain ⟨-, ⟨hbuilt, hframe, -⟩ | ⟨hno, hframe⟩⟩ := step_builds_or_keeps hrst h
  · rw [hbuilt, hframe]
    rfl
  · rw [hno, hframe]
    exact (Nat.mod_eq_of_lt s.faFrame.isLt).symm

theorem nextOf_eq_some {o : Host.Outcome State Fault Refusal} {t : State} (h : nextOf o = some t) : o = .next t := by
  cases o with
  | next u => rw [Option.some.inj h]
  | fault r => cases h
  | refused r => cases h

/-- What one step of a run adds to the number of frames built. -/
theorem runFrames_succ_eq_some {n k : Nat} {s u : State} (h : runFrames (n + 1) s = some (k, u)) :
    ∃ t j, step s = .next t ∧ runFrames n t = some (j, u) ∧ k = j + (builtFrame s t).toNat := by
  obtain ⟨t, ht, hmap⟩ := Option.bind_eq_some_iff.1 h
  obtain ⟨⟨j, u'⟩, hrun, heq⟩ := Option.map_eq_some_iff.1 hmap
  obtain ⟨rfl, rfl⟩ := Prod.mk.inj heq
  exact ⟨t, j, nextOf_eq_some ht, hrun, rfl⟩

/-- R185: over steps without reset the counter advances by the number of frames built, whatever stands between. -/
theorem faFrame_of_runFrames {n k : Nat} {s t : State} (hrst : ∀ p ∈ s.inputs, p.rst = false)
    (h : runFrames n s = some (k, t)) : t.faFrame.val = (s.faFrame.val + k) % 192 := by
  induction n generalizing s k with
  | zero =>
    obtain ⟨rfl, rfl⟩ := Prod.mk.inj (Option.some.inj h)
    exact (Nat.mod_eq_of_lt s.faFrame.isLt).symm
  | succ n ih =>
    obtain ⟨u, j, hstep, hrun, rfl⟩ := runFrames_succ_eq_some h
    have hport := portIn_rst_of_inputs hrst
    obtain ⟨htail, -⟩ := step_builds_or_keeps hport hstep
    have hrest : ∀ p ∈ u.inputs, p.rst = false := fun p hp => hrst p (List.mem_of_mem_tail (htail ▸ hp))
    rw [ih hrest hrun, faFrame_of_step hport hstep]
    omega

/-- Settles O37: the counter is the number of frames built, modulo 192, so the frame answered next is that frame. -/
theorem blockAlignment : Obligations.BlockAlignment := by
  unfold Obligations.BlockAlignment
  intro n k s t u r hzero hrst hrun hstep hbuilt hr
  have hframe : t.faFrame.val = k % 192 := by rw [faFrame_of_runFrames hrst hrun, hzero, Nat.zero_add]
  obtain ⟨-, -, eA, uA, eB, uB, hrsp⟩ := answersFrame_of_builtFrame hstep hbuilt
  obtain rfl := Option.some.inj (hrsp.symm.trans hr)
  have hdone : t.faFrame.val = 191 ↔ (k + 1) % 192 = 0 := by omega
  simp only [← hframe, ← hdone]
  exact ⟨frameFlags_index _, frameSubframe_preamble .., frameSubframe_preamble .., lbit_frameSubframe_30 ..,
    lbit_frameSubframe_30 .., frameFlags_blockStart _, frameFlags_blockDone _⟩

end Sys2Proof.Proofs
end

section
/-! Errors (`60_exceptions.md`): the cases in which a command raises one (R201, R202, R206), what a command answers in
them and outside them, and what every step answers (R200, R203). -/
namespace Sys2Proof.Proofs
open Sys2Proof Sys2Proof.Machine Sys2Proof.Claims

/-! ### The error cases -/

/-- The command is in a case of the error in this state; the other statuses have no case among the commands (R200). -/
def ErrorCase (s : State) (i : Instr) : Status → Prop
  | .configError => configErrorCase s i
  | .rangeError => rangeErrorCase s i
  | .operandError => operandErrorCase i
  | .ok | .integrityError | .transportError | .illegalCommand => False

theorem mem_raises_of_configErrorCase {s : State} {i : Instr} (h : configErrorCase s i) : .configError ∈ raises i := by
  cases i with
  | seCfg | seVrange | csSetPro | csSetPcm | csSetEmph | csSetLock | csSetFs | csSetAux | csSetWlen | csSetAlign =>
    exact List.mem_cons_self
  | _ => cases h

theorem mem_raises_of_rangeErrorCase {s : State} {i : Instr} (h : rangeErrorCase s i) : .rangeError ∈ raises i := by
  cases i with
  | seEnc | faStep => exact List.mem_cons_self
  | seVrange => exact List.mem_cons_of_mem _ List.mem_cons_self
  | _ => cases h

theorem mem_raises_of_operandErrorCase {i : Instr} (h : operandErrorCase i) : .operandError ∈ raises i := by
  cases i with
  | csWrb | csRdb | bmcEnc | bmcDec => exact List.mem_cons_self
  | _ => cases h

/-- The cases of R201, R202 and R206 lie within the table of R200. -/
theorem mem_raises_of_errorCase {s : State} {i : Instr} {e : Status} (h : ErrorCase s i e) : e ∈ raises i := by
  cases e with
  | configError => exact mem_raises_of_configErrorCase h
  | rangeError => exact mem_raises_of_rangeErrorCase h
  | operandError => exact mem_raises_of_operandErrorCase h
  | ok | integrityError | transportError | illegalCommand => cases h

theorem not_errorCase_of_raises_nil {s : State} {i : Instr} (h : raises i = []) (e : Status) : ¬ ErrorCase s i e :=
  fun he => List.not_mem_nil (h ▸ mem_raises_of_errorCase he)

theorem errorCase_eq_of_raises_singleton {s : State} {i : Instr} {e e' : Status} (h : raises i = [e])
    (he' : ErrorCase s i e') : e' = e :=
  List.mem_singleton.1 (h ▸ mem_raises_of_errorCase he')

theorem errorCase_seVrange {s : State} {x : Sample} {wl : BitVec 5} {e : Status} (h : ErrorCase s (.seVrange x wl) e) :
    (e = .configError ∧ (wl.toNat < 20 ∨ 24 < wl.toNat)) ∨ (e = .rangeError ∧ 20 ≤ wl.toNat ∧ wl.toNat ≤ 24) := by
  cases e with
  | configError => exact .inl ⟨rfl, h⟩
  | rangeError => exact .inr ⟨rfl, h.1⟩
  | _ => cases h

/-- The cases exclude each other: all commands but `SE.VRANGE` raise one error at most, and that one tests the sample
only under an accepted word length (R88). -/
theorem errorCase_unique {s : State} {i : Instr} {e e' : Status} (he : ErrorCase s i e) (he' : ErrorCase s i e') :
    e = e' := by
  cases i with
  | seVrange x wl =>
    obtain ⟨rfl, hwl⟩ | ⟨rfl, hwl⟩ := errorCase_seVrange he <;>
      obtain ⟨rfl, hwl'⟩ | ⟨rfl, hwl'⟩ := errorCase_seVrange he'
    · rfl
    · omega
    · omega
    · rfl
  | seCfg | seEnc | csWrb | csRdb | csSetPro | csSetPcm | csSetEmph | csSetLock | csSetFs | csSetAux | csSetWlen
  | csSetAlign | bmcEnc | bmcDec | faStep =>
    exact (errorCase_eq_of_raises_singleton rfl he).trans (errorCase_eq_of_raises_singleton rfl he').symm
  | _ => exact absurd he (not_errorCase_of_raises_nil rfl e)

/-! ### What a command answers -/

/-- The flags of an error: none, but for `FA.STEP`, which names the channel in `rf[10]` (R200). -/
def ErrorFlags (i : Instr) (rf : BitVec 16) : Prop :=
  rf = 0 ∨ rf = 0x0400 ∧ ∃ xA vA uA xB vB uB, i = .faStep xA vA uA xB vB uB

/-- The outcome is that of a command in one of its error cases, which changes the response alone, or of a command in
none, which answers OK. -/
def AnswersByCase (s : State) (i : Instr) (o : Host.Outcome State Fault Refusal) : Prop :=
  ∃ t r, o = .next t ∧ t.rsp = some r ∧
    ((ErrorCase s i r.st ∧ t = s.withRsp r.st 0 0 r.rf ∧ ErrorFlags i r.rf) ∨ (r.st = .ok ∧ ∀ e, ¬ ErrorCase s i e))

theorem answersByCase_raise {s : State} {i : Instr} {e : Status} {info : BitVec 16} (h : ErrorCase s i e)
    (hinfo : ErrorFlags i info) : AnswersByCase s i (raise s e info) :=
  ⟨_, _, rfl, rfl, .inl ⟨h, rfl, hinfo⟩⟩

theorem answersByCase_respond {s : State} {i : Instr} (h : ∀ e, ¬ ErrorCase s i e) (t : State) (r0 r1 : BitVec 64)
    (rf : BitVec 16) : AnswersByCase s i (respond t r0 r1 rf) :=
  ⟨_, _, rfl, rfl, .inr ⟨rfl, h⟩⟩

/-- A command that raises nothing. -/
theorem answersByCase_of_raises_nil {s : State} {i : Instr} (h : raises i = []) (t : State) (r0 r1 : BitVec 64)
    (rf : BitVec 16) : AnswersByCase s i (respond t r0 r1 rf) :=
  answersByCase_respond (not_errorCase_of_raises_nil h) t r0 r1 rf

/-- A command that raises one error, not in the case of it. -/
theorem answersByCase_of_raises_singleton {s : State} {i : Instr} {e : Status} (hraises : raises i = [e])
    (h : ¬ ErrorCase s i e) (t : State) (r0 r1 : BitVec 64) (rf : BitVec 16) :
    AnswersByCase s i (respond t r0 r1 rf) :=
  answersByCase_respond (fun _ he' => h (errorCase_eq_of_raises_singleton hraises he' ▸ he')) t r0 r1 rf

/-- A command that raises one error, decided by one test. -/
theorem answersByCase_ite {s t : State} {i : Instr} {e : Status} {c : Prop} [Decidable c] {r0 r1 : BitVec 64}
    {rf : BitVec 16} (hraises : raises i = [e]) (hc : ErrorCase s i e ↔ c) :
    AnswersByCase s i (if c then raise s e 0 else respond t r0 r1 rf) := by
  split
  · next h => exact answersByCase_raise (hc.2 h) (.inl rfl)
  · next h => exact answersByCase_of_raises_singleton hraises (mt hc.1 h) t r0 r1 rf

/-- R83 refuses the samples that do not fit, under validation. -/
theorem not_accepted_iff (cfg : SeCfg) (x : Sample) :
    ¬ accepted cfg x ↔ cfg.vi = true ∧ ¬ fits cfg.wl.toNat x := by
  rw [accepted, not_or, Bool.not_eq_false]

theorem execSeCfg_answersByCase (wl : BitVec 5) (pe : BitVec 3) (av vi : Bool) (s : State) :
    AnswersByCase s (.seCfg wl pe av vi) (execSeCfg wl pe av vi s) := by
  by_cases h : (wl.toNat < 20 ∨ 24 < wl.toNat) ∨ pe ∉ s.params.preemphSupported
  · rw [execSeCfg_of_refused (by rwa [wordLengthOfCode_eq_none])]
    exact answersByCase_raise (e := .configError) h (.inl rfl)
  · have hwl : 20 ≤ wl.toNat ∧ wl.toNat ≤ 24 := by omega
    obtain ⟨w, hw⟩ := exists_wordLengthOfCode hwl
    rw [execSeCfg_of_supported hw (not_not.1 (not_or.1 h).2)]
    refine answersByCase_of_raises_singleton (e := .configError) rfl ?_ _ _ _ _
    exact h

theorem execSeEnc_answersByCase (x : Sample) (isValid : Bool) (s : State) :
    AnswersByCase s (.seEnc x isValid) (execSeEnc x isValid s) := by
  by_cases h : accepted s.seCfg x
  · rw [execSeEnc_of_accepted h]
    refine answersByCase_of_raises_singleton (e := .rangeError) rfl ?_ _ _ _ _
    exact fun hcase => (not_accepted_iff _ _).2 hcase h
  · rw [execSeEnc_of_not_accepted h]
    exact answersByCase_raise (e := .rangeError) ((not_accepted_iff _ _).1 h) (.inl rfl)

theorem execSeVrange_answersByCase (x : Sample) (wl : BitVec 5) (s : State) :
    AnswersByCase s (.seVrange x wl) (execSeVrange x wl s) := by
  by_cases hwl : 20 ≤ wl.toNat ∧ wl.toNat ≤ 24
  · rw [execSeVrange_of_wordLength hwl]
    split
    · next hfits =>
      refine answersByCase_respond (fun e he => ?_) _ _ _ _
      obtain ⟨rfl, hout⟩ | ⟨rfl, -⟩ := errorCase_seVrange he
      · omega
      · exact he.2 hfits
    · next hfits => exact answersByCase_raise (e := .rangeError) ⟨hwl, hfits⟩ (.inl rfl)
  · have hout : wl.toNat < 20 ∨ 24 < wl.toNat := by omega
    rw [execSeVrange_of_no_wordLength (wordLengthOfCode_eq_none.2 hout)]
    exact answersByCase_raise (e := .configError) hout (.inl rfl)

theorem execFaStep_answersByCase (xA : Sample) (vA uA : Bool) (xB : Sample) (vB uB : Bool) (s : State) :
    AnswersByCase s (.faStep xA vA uA xB vB uB) (execFaStep xA vA uA xB vB uB s) := by
  by_cases hA : accepted s.seCfg xA
  · have hencA := seEncode_of_accepted hA vA
    by_cases hB : accepted s.seCfg xB
    · rw [execFaStep_of_encoded hencA (seEncode_of_accepted hB vB)]
      refine answersByCase_of_raises_singleton (e := .rangeError) rfl ?_ _ _ _ _
      rintro ⟨hvi, hout | hout⟩
      · exact (not_accepted_iff _ _).2 ⟨hvi, hout⟩ hA
      · exact (not_accepted_iff _ _).2 ⟨hvi, hout⟩ hB
    · obtain ⟨hvi, hout⟩ := (not_accepted_iff _ _).1 hB
      rw [execFaStep_of_refused_b hencA (seEncode_of_not_accepted hB vB)]
      exact answersByCase_raise (e := .rangeError) ⟨hvi, .inr hout⟩ (.inr ⟨rfl, _, _, _, _, _, _, rfl⟩)
  · obtain ⟨hvi, hout⟩ := (not_accepted_iff _ _).1 hA
    rw [execFaStep_of_refused_a (seEncode_of_not_accepted hA vA)]
    exact answersByCase_raise (e := .rangeError) ⟨hvi, .inl hout⟩ (.inl rfl)

/-- Every command, in every state, answers by its cases. -/
theorem exec_answersByCase (i : Instr) (s : State) : AnswersByCase s i (exec i s) := by
  cases i with
  | seCfg wl pe av vi => exact execSeCfg_answersByCase wl pe av vi s
  | seEnc x v => exact execSeEnc_answersByCase x v s
  | seVrange x wl => exact execSeVrange_answersByCase x wl s
  | faStep xA vA uA xB vB uB => exact execFaStep_answersByCase xA vA uA xB vB uB s
  | csWrb | csRdb | bmcEnc | bmcDec => exact answersByCase_ite (e := .operandError) rfl Iff.rfl
  | csSetPro | csSetPcm | csSetEmph | csSetLock | csSetFs | csSetAux | csSetWlen | csSetAlign =>
    exact answersByCase_ite (e := .configError) rfl Iff.rfl
  | seEnc16 | seEnc24p | seEmarst | seEmard | csClr | csCrc | csVal | csGetPro | csGetPcm | csGetEmph | csGetLock
  | csGetFs | csGetAux | csGetWlen | csGetAlign | saCfg | saBuild | sfLine =>
    exact answersByCase_of_raises_nil rfl _ _ _ _

section
variable {i : Instr} {s t : State} {r : Response} (h : exec i s = .next t) (hr : t.rsp = some r)
include h hr

theorem response_cases_of_exec :
    (ErrorCase s i r.st ∧ t = s.withRsp r.st 0 0 r.rf ∧ ErrorFlags i r.rf) ∨
    (r.st = .ok ∧ ∀ e, ¬ ErrorCase s i e) := by
  obtain ⟨t', r', ht, hr', hcase⟩ := exec_answersByCase i s
  obtain rfl := Host.Outcome.next.inj (h.symm.trans ht)
  obtain rfl := Option.some.inj (hr.symm.trans hr')
  exact hcase

/-- The response of a command is an error exactly in the case of that error. -/
theorem st_eq_iff_errorCase {e : Status} (he : e ≠ .ok) : r.st = e ↔ ErrorCase s i e := by
  obtain ⟨hcase, -, -⟩ | ⟨hok, hno⟩ := response_cases_of_exec h hr
  · exact ⟨fun hst => hst ▸ hcase, errorCase_unique hcase⟩
  · exact iff_of_false (fun hst => he (hst.symm.trans hok)) (hno e)

/-- An error changes the response alone, and its flags are those of the table. -/
theorem eq_withRsp_of_exec_error (hst : r.st ≠ .ok) : t = s.withRsp r.st 0 0 r.rf ∧ ErrorFlags i r.rf := by
  obtain ⟨-, herror⟩ | ⟨hok, -⟩ := response_cases_of_exec h hr
  · exact herror
  · exact absurd hok hst

theorem mem_raises_of_exec_error (hst : r.st ≠ .ok) : r.st ∈ raises i :=
  mem_raises_of_errorCase ((st_eq_iff_errorCase h hr hst).1 rfl)

theorem st_ne_illegalCommand_of_exec : r.st ≠ .illegalCommand :=
  (st_eq_iff_errorCase h hr (by decide)).1

end

/-- No meaning reads the response of the step before, so none answers otherwise for it (`10_state.md` R18). -/
theorem exec_with_rsp (i : Instr) (s : State) (r : Option Response) : exec i { s with rsp := r } = exec i s := by
  cases i <;> rfl

/-! ### What a step answers -/

theorem portAction_eq_illegal_iff (p : PortIn) :
    portAction p = .illegal ↔ p.rst = false ∧ p.cmdValid = true ∧ decode p.cmd = none := by
  unfold portAction
  split
  · next hrst => simp [hrst]
  · next hrst =>
    split
    · next hvalid => split <;> simp_all
    · next hvalid => simp [hvalid]

/-- A step that answers a response refused an undefined opcode or executed a command. -/
theorem step_response_cases {s t : State} {r : Response} (h : step s = .next t) (hr : t.rsp = some r) :
    (portAction s.portIn = .illegal ∧ t = s.advanced.withRsp .illegalCommand 0 0 0) ∨
    ∃ i, portAction s.portIn = .command i ∧ exec i s.advanced = .next t := by
  unfold step at h
  split at h
  · obtain rfl := Host.Outcome.next.inj h
    cases hr
  · obtain rfl := Host.Outcome.next.inj h
    cases hr
  · next hact => exact .inl ⟨hact, raise_eq_next h⟩
  · next i hact => exact .inr ⟨i, hact, h⟩

theorem exec_next (i : Instr) (s : State) : ∃ t, exec i s = .next t := by
  obtain ⟨t, -, ht, -⟩ := exec_answersByCase i s
  exact ⟨t, ht⟩

theorem step_next (s : State) : ∃ t, step s = .next t := by
  unfold step
  split
  · exact ⟨_, rfl⟩
  · exact ⟨_, rfl⟩
  · exact ⟨_, rfl⟩
  · exact exec_next _ _

theorem st_eq_illegalCommand_iff {s t : State} {r : Response} (h : step s = .next t) (hr : t.rsp = some r) :
    r.st = .illegalCommand ↔ portAction s.portIn = .illegal := by
  obtain ⟨hact, rfl⟩ | ⟨i, hact, hexec⟩ := step_response_cases h hr
  · obtain rfl := Option.some.inj hr
    exact iff_of_true rfl hact
  · exact iff_of_false (st_ne_illegalCommand_of_exec hexec hr) (by simp [hact])

theorem eq_withRsp_of_step_error {s t : State} {r : Response} (h : step s = .next t) (hr : t.rsp = some r)
    (hst : r.st ≠ .ok) : t = s.advanced.withRsp r.st 0 0 r.rf := by
  obtain ⟨-, rfl⟩ | ⟨i, -, hexec⟩ := step_response_cases h hr
  · obtain rfl := Option.some.inj hr
    rfl
  · exact (eq_withRsp_of_exec_error hexec hr hst).1

/-! ### R200 to R203, R206 -/

/-- Settles O38: a command answers OK or an error it has a case of, and only a refused opcode answers IllegalCommand. -/
theorem statusesAreThoseOfTheTable : Obligations.StatusesAreThoseOfTheTable := by
  unfold Obligations.StatusesAreThoseOfTheTable
  refine ⟨rfl, fun i s t r h hr => ⟨?_, fun hst => (eq_withRsp_of_exec_error h hr hst).2⟩, fun s t r h hr => ?_⟩
  · exact or_iff_not_imp_left.2 (mem_raises_of_exec_error h hr)
  · exact (st_eq_illegalCommand_iff h hr).trans (portAction_eq_illegal_iff _)

/-- Settles O39: every command answers a response, whose status names the case the command is in. -/
theorem errorsAreRaisedInExactlyTheListedCases : Obligations.ErrorsAreRaisedInExactlyTheListedCases := by
  unfold Obligations.ErrorsAreRaisedInExactlyTheListedCases
  intro i s
  obtain ⟨t, r, h, hr, -⟩ := exec_answersByCase i s
  have hrsp : rspOf (exec i s) = some r := by rw [h]; exact hr
  exact ⟨r, hrsp, st_eq_iff_errorCase h hr (by decide), st_eq_iff_errorCase h hr (by decide),
    st_eq_iff_errorCase h hr (by decide)⟩

/-- Settles O40: an error changes the response alone, which no command reads. -/
theorem errorsLeaveNoTrace : Obligations.ErrorsLeaveNoTrace := by
  unfold Obligations.ErrorsLeaveNoTrace
  refine ⟨step_next, exec_next, fun s t r => eq_withRsp_of_step_error, fun i s t r h hr hst => ?_⟩
  obtain ⟨ht, -⟩ := eq_withRsp_of_exec_error h hr hst
  refine ⟨ht, fun j => ?_⟩
  rw [ht]
  exact exec_with_rsp j s _

end Sys2Proof.Proofs
end

section
/-! Reset (`70_reset_and_hazards.md` R230) and CORE as it is found after it (R231). -/
namespace Sys2Proof.Proofs
open Sys2Proof Sys2Proof.Machine Sys2Proof.Claims

/-! ### The step with `rst` -/

/-- A step without reset from frame 1 keeps the counter or takes it to frame 2. -/
theorem faFrame_ne_zero_of_step {s t : State} (hrst : s.portIn.rst = false) (hone : s.faFrame.val = 1)
    (h : step s = .next t) : t.faFrame.val ≠ 0 := by
  rw [faFrame_of_step hrst h, hone]
  cases builtFrame s t <;> decide

/-- Settles O50: the next state is `resetStep`, read item by item; from frame 1, no word takes the counter to 0. -/
theorem rstOverridesTheCommand : Obligations.RstOverridesTheCommand := by
  unfold Obligations.RstOverridesTheCommand
  refine ⟨fun s hrst => ?_, fun cmd => ?_⟩
  · exact ⟨_, step_of_reset hrst, rfl, rfl, rfl, rfl, rfl, rfl, fun a _ => read_reset_csRec a, rfl, rfl⟩
  · obtain ⟨t, h⟩ := step_next (({ State.reset with faFrame := 1 } : State).present cmd)
    exact ⟨_, t, h, faFrame_ne_zero_of_step rfl rfl h⟩

/-! ### The reset state in use -/

/-- The validation flag is set and the word length is 24 after reset, so a sample that fits 24 bits is accepted. -/
theorem seEncode_reset_of_fits {x : Sample} (h : fits 24 x) (isValid : Bool) :
    ∃ e, seEncode State.reset.seCfg x isValid = some e :=
  have hacc : accepted State.reset.seCfg x := .inr h
  ⟨_, seEncode_of_accepted hacc isValid⟩

theorem csGet_reset (f : FieldPos) : csGet State.reset.csRec f = 0 := by
  rw [csGet, read_reset_csRec]
  exact BitVec.extractLsb'_zero

theorem zext64_zero (w : Nat) : zext64 (0 : BitVec w) = 0 := BitVec.setWidth_zero 64 w

/-- R105 on the record of reset: the register after 184 zero bits. -/
theorem crc8_reset : crc8 State.reset.csRec = 0x0D := by decide +kernel

/-- The CRC of the zero record is not 0, so its byte 23 does not match. -/
theorem crc8_reset_ne_read : crc8 State.reset.csRec ≠ State.reset.csRec.read 23 := by
  rw [crc8_reset, read_reset_csRec]
  decide

/-- Settles O51: both samples are encoded, into the subframes and flags of frame 0; the record reads as zeros, whose CRC
is not the 0 of byte 23. -/
theorem afterResetTheFirstFrameStartsABlock : Obligations.AfterResetTheFirstFrameStartsABlock := by
  unfold Obligations.AfterResetTheFirstFrameStartsABlock
  refine ⟨fun xA vA uA xB vB uB hA hB => ?_, fun row hrow => ?_, exec_csVal_of_ne crc8_reset_ne_read, ?_, ?_⟩
  · obtain ⟨eA, hencA⟩ := seEncode_reset_of_fits hA vA
    obtain ⟨eB, hencB⟩ := seEncode_reset_of_fits hB vB
    exact ⟨_, _, execFaStep_of_encoded hencA hencB, rfl, rfl, frameSubframe_preamble .., frameSubframe_preamble ..,
      rfl, rfl⟩
  · rw [exec_get_eq hrow, csGet_reset, zext64_zero]
  · rw [exec_csRdb_of_le (by decide), read_reset_csRec]
    rfl
  · rw [exec_csCrc, ← crc8_toNat, crc8_reset]
    rfl

end Sys2Proof.Proofs
end

section
/-! The encoder and the decoder are inverse (`30_encoding.md` R60, R63, R68): an operand placed in B or A is cut out
again, and the operands beside it are not in the way. -/
namespace Sys2Proof.Proofs
open Sys2Proof Sys2Proof.Machine Sys2Proof.Claims

/-! ### A value placed in a word -/

section
variable {n w lo : Nat} (x : BitVec n)

theorem getLsbD_placed {i : Nat} (h : lo + i < w) : (x.setWidth w <<< lo).getLsbD (lo + i) = x.getLsbD i := by
  simp [h]

theorem getLsbD_placed_of_outside {k : Nat} (h : k < lo ∨ lo + n ≤ k) : (x.setWidth w <<< lo).getLsbD k = false := by
  obtain hlow | hhigh := h
  · simp [hlow]
  · rw [BitVec.getLsbD_shiftLeft, BitVec.getLsbD_setWidth, BitVec.getLsbD_of_ge x (k - lo) (by omega), Bool.and_false,
      Bool.and_false]

theorem extractLsb'_placed (h : lo + n ≤ w) : (x.setWidth w <<< lo).extractLsb' lo n = x := by
  apply BitVec.eq_of_getLsbD_eq
  intro i hi
  rw [BitVec.getLsbD_extractLsb', decide_eq_true hi, Bool.true_and, getLsbD_placed x (by omega)]

theorem extractLsb'_placed_of_outside {lo' n' : Nat} (h : lo' + n' ≤ lo ∨ lo + n ≤ lo') :
    (x.setWidth w <<< lo).extractLsb' lo' n' = 0#n' := by
  apply BitVec.eq_of_getLsbD_eq
  intro i hi
  rw [BitVec.getLsbD_extractLsb', getLsbD_placed_of_outside x (by omega), Bool.and_false]
  exact BitVec.getLsbD_zero.symm

/-! A value placed at bit 0 is not shifted. -/

theorem getLsbD_extended_of_outside {k : Nat} (h : n ≤ k) : (x.setWidth w).getLsbD k = false := by
  simpa using getLsbD_placed_of_outside (w := w) (lo := 0) x (.inr (by simpa using h))

theorem extractLsb'_extended (h : n ≤ w) : (x.setWidth w).extractLsb' 0 n = x := by
  simpa using extractLsb'_placed (lo := 0) x (by simpa using h)

theorem extractLsb'_extended_of_outside {lo' n' : Nat} (h : n ≤ lo') : (x.setWidth w).extractLsb' lo' n' = 0#n' := by
  simpa using extractLsb'_placed_of_outside (w := w) (lo := 0) x (.inr (by simpa using h))

end

theorem getLsbD_flagAt {k : Nat} (x : Bool) (h : k < 24) : (flagAt k x).getLsbD k = x :=
  (getLsbD_placed (BitVec.ofBool x) (lo := k) (i := 0) h).trans (by cases x <;> rfl)

theorem getLsbD_flagAt_of_ne {k j : Nat} (x : Bool) (h : j ≠ k) : (flagAt k x).getLsbD j = false :=
  getLsbD_placed_of_outside (BitVec.ofBool x) (by omega)

theorem extractLsb'_flagAt_of_outside {k lo n : Nat} (x : Bool) (h : lo + n ≤ k ∨ k < lo) :
    (flagAt k x).extractLsb' lo n = 0#n :=
  extractLsb'_placed_of_outside (BitVec.ofBool x) h

/-! ### Decoding what was encoded -/

/-- R66: the operands cut out of the encoded B and A are those that were put in. -/
theorem operandsOf_encode (i : Instr) : operandsOf (encodeB i) (encodeA i) i.opcode = i := by
  cases i with
  | seCfg | seEnc | seEnc16 | seEnc24p | seVrange | csWrb | csRdb | saCfg | saBuild | bmcEnc | bmcDec | faStep =>
    simp (disch := decide) only [Instr.opcode, operandsOf, encodeB, encodeA, BitVec.extractLsb'_or, BitVec.getLsbD_or,
      extractLsb'_placed, extractLsb'_placed_of_outside, getLsbD_placed_of_outside, extractLsb'_extended,
      extractLsb'_extended_of_outside, getLsbD_extended_of_outside, getLsbD_flagAt, getLsbD_flagAt_of_ne,
      extractLsb'_flagAt_of_outside, BitVec.or_zero, BitVec.zero_or, Bool.or_false, Bool.false_or]
  | csSetPro | csSetPcm | csSetEmph | csSetLock | csSetFs | csSetAux | csSetWlen | csSetAlign | sfLine
  | seEmarst | seEmard | csClr | csCrc | csVal | csGetPro | csGetPcm | csGetEmph | csGetLock | csGetFs | csGetAux
  | csGetWlen | csGetAlign => rfl

/-- Settles O1: the opcode byte names the command, and its operands are cut out as they were put in. -/
theorem decodeOfEncodeIsTheCommand : Obligations.DecodeOfEncodeIsTheCommand := by
  unfold Obligations.DecodeOfEncodeIsTheCommand
  intro i
  have hop : opcodeOfByte (cmdOp (encode i)) = some i.opcode := by
    rw [encode, cmdOp_mkCmd, opcodeOfByte_opcodeByte]
  rw [decode_of_opcode hop, encode, cmdB_mkCmd, cmdA_mkCmd, operandsOf_encode]

/-- Settles O2: each word has the opcode byte of a command and its operands at their places; the byte 0 is undefined. -/
theorem specWordsDecode : Obligations.SpecWordsDecode := by
  unfold Obligations.SpecWordsDecode
  exact ⟨decode_seCfg _ rfl, decode_seEnc24p _ rfl, decode_csWrb _ rfl, decode_of_opcodeByte .csSetEmph rfl,
    decode_of_opcodeByte .csGetWlen rfl, decode_saBuild _ rfl, decode_bmcEnc _ rfl, decode_faStep _ rfl,
    (decode_eq_none_iff _).2 rfl⟩

end Sys2Proof.Proofs
end

section
/-! What a command can change (`10_state.md` section 2, the summary of access), said once for all commands, and what
follows: each item's writers, the commands that write no state, the invariant. -/
namespace Sys2Proof.Proofs
open Sys2Proof Sys2Proof.Machine Sys2Proof.Claims

/-! ### The effects of commands -/

/-- `Effect s i t`: what command `i` may have made of `s` when it goes on to `t`. Every command may answer and change
nothing else, and each kind of writer may change the item it writes. -/
inductive Effect (s : State) : Instr → State → Prop
  | answer (i : Instr) (r : Option Response) : Effect s i { s with rsp := r }
  | configuration (wl : BitVec 5) (pe : BitVec 3) (av vi : Bool) (w : WordLength) (r : Option Response)
      (hpe : pe ∈ s.params.preemphSupported) :
      Effect s (.seCfg wl pe av vi) { s with seCfg := ⟨w, pe, av, vi⟩, rsp := r }
  | average (i : Instr) (e : BitVec 32) (r : Option Response) (hi : writesEma i = true) :
      Effect s i { s with seEma := e, rsp := r }
  | record (i : Instr) (m : Memory) (r : Option Response) (hi : writesRecord i = true) (hm : s.csRec.wf → m.wf) :
      Effect s i { s with csRec := m, rsp := r }
  | parity (ap : Bool) (r : Option Response) : Effect s (.saCfg ap) { s with saCfg := ⟨ap⟩, rsp := r }
  | frame (xA : Sample) (vA uA : Bool) (xB : Sample) (vB uB : Bool) (e : BitVec 32) (f : Fin 192)
      (r : Option Response) :
      Effect s (.faStep xA vA uA xB vB uB) { s with seEma := e, faFrame := f, rsp := r }

/-- The outcome goes on, with an effect of the command. -/
def Acts (s : State) (i : Instr) (o : Host.Outcome State Fault Refusal) : Prop := ∃ t, o = .next t ∧ Effect s i t

theorem acts_raise (s : State) (i : Instr) (e : Status) (info : BitVec 16) : Acts s i (raise s e info) :=
  ⟨_, rfl, .answer i _⟩

theorem acts_respond (s : State) (i : Instr) (r0 r1 : BitVec 64) (rf : BitVec 16) : Acts s i (respond s r0 r1 rf) :=
  ⟨_, rfl, .answer i _⟩

theorem acts_ite {c : Prop} [Decidable c] {s : State} {i : Instr} {o o' : Host.Outcome State Fault Refusal}
    (h : Acts s i o) (h' : Acts s i o') : Acts s i (if c then o else o') := by
  split <;> assumption

theorem AnswersFromRecord.acts {i : Instr} (he : AnswersFromRecord (exec i)) (s : State) : Acts s i (exec i s) := by
  obtain ⟨f, hf⟩ := he
  exact ⟨_, hf s, .answer i _⟩

theorem execSeCfg_acts (wl : BitVec 5) (pe : BitVec 3) (av vi : Bool) (s : State) :
    Acts s (.seCfg wl pe av vi) (execSeCfg wl pe av vi s) := by
  unfold execSeCfg
  split
  · exact acts_raise ..
  · split
    · next w _ hpe => exact ⟨_, rfl, .configuration wl pe av vi w _ (List.contains_iff_mem.1 hpe)⟩
    · exact acts_raise ..

theorem execSeEnc_acts (x : Sample) (v : Bool) (s : State) : Acts s (.seEnc x v) (execSeEnc x v s) := by
  unfold execSeEnc
  split
  · exact acts_raise ..
  · exact ⟨_, rfl, .average _ _ _ rfl⟩

theorem execSeVrange_acts (x : Sample) (wl : BitVec 5) (s : State) :
    Acts s (.seVrange x wl) (execSeVrange x wl s) := by
  unfold execSeVrange
  split
  · exact acts_raise ..
  · exact acts_ite (acts_respond ..) (acts_raise ..)

theorem execCsWrb_acts (index : BitVec 5) (value : Byte) (s : State) :
    Acts s (.csWrb index value) (execCsWrb index value s) := by
  unfold execCsWrb
  split
  · exact acts_raise ..
  · next h => exact ⟨_, rfl, .record _ _ _ rfl fun hs => Memory.write_wf hs (by omega) value⟩

theorem setField_acts {f : FieldPos} (hf : f.byte < 24) (x : BitVec 64) (s : State) {i : Instr}
    (hi : writesRecord i = true) : Acts s i (setField f x s) := by
  obtain ⟨-, h⟩ | ⟨-, h⟩ := setField_cases f x s
  · exact ⟨_, h, .record i _ _ hi fun hs => csSet_wf hs hf x⟩
  · exact ⟨_, h, .answer i _⟩

theorem execFaStep_acts (xA : Sample) (vA uA : Bool) (xB : Sample) (vB uB : Bool) (s : State) :
    Acts s (.faStep xA vA uA xB vB uB) (execFaStep xA vA uA xB vB uB s) := by
  unfold execFaStep
  split
  · exact acts_raise ..
  · split
    · exact acts_raise ..
    · exact ⟨_, rfl, .frame xA vA uA xB vB uB _ _ _⟩

theorem exec_acts (i : Instr) (s : State) : Acts s i (exec i s) := by
  cases i with
  | seCfg wl pe av vi => exact execSeCfg_acts wl pe av vi s
  | seEnc x v => exact execSeEnc_acts x v s
  | seEnc16 | seEnc24p | seEmarst => exact ⟨_, rfl, .average _ _ _ rfl⟩
  | seVrange x wl => exact execSeVrange_acts x wl s
  | csClr => exact ⟨_, rfl, .record _ _ _ rfl fun _ => Memory.wf_zeroed⟩
  | csWrb index value => exact execCsWrb_acts index value s
  | csSetPro | csSetPcm | csSetEmph | csSetLock | csSetFs | csSetAux | csSetWlen | csSetAlign =>
    exact setField_acts (by decide) _ s rfl
  | csRdb | csCrc | csVal | csGetPro | csGetPcm | csGetEmph | csGetLock | csGetFs | csGetAux | csGetWlen
  | csGetAlign => exact (exec_answersFromRecord rfl).acts s
  | saCfg ap => exact ⟨_, rfl, .parity ap _⟩
  | seEmard | saBuild | sfLine => exact acts_respond ..
  | bmcEnc | bmcDec => exact acts_ite (acts_raise ..) (acts_respond ..)
  | faStep xA vA uA xB vB uB => exact execFaStep_acts xA vA uA xB vB uB s

theorem effect_of_exec {i : Instr} {s t : State} (h : exec i s = .next t) : Effect s i t := by
  obtain ⟨t', ht', heff⟩ := exec_acts i s
  exact Host.Outcome.next.inj (ht'.symm.trans h) ▸ heff

/-! ### The writers of each item -/

section
variable {i : Instr} {s t : State} (h : Effect s i t)
include h

theorem Effect.seCfg_eq (hi : ∀ wl pe av vi, i ≠ .seCfg wl pe av vi) : t.seCfg = s.seCfg := by
  cases h with
  | configuration wl pe av vi => exact absurd rfl (hi wl pe av vi)
  | _ => rfl

theorem Effect.seEma_eq (hi : writesEma i = false) : t.seEma = s.seEma := by
  cases h with
  | average _ _ _ hw => cases hi.symm.trans hw
  | frame => cases hi
  | _ => rfl

theorem Effect.saCfg_eq (hi : ∀ ap, i ≠ .saCfg ap) : t.saCfg = s.saCfg := by
  cases h with
  | parity ap => exact absurd rfl (hi ap)
  | _ => rfl

theorem Effect.faFrame_eq (hi : ∀ xA vA uA xB vB uB, i ≠ .faStep xA vA uA xB vB uB) : t.faFrame = s.faFrame := by
  cases h with
  | frame xA vA uA xB vB uB => exact absurd rfl (hi xA vA uA xB vB uB)
  | _ => rfl

theorem Effect.params_eq : t.params = s.params := by cases h <;> rfl

theorem Effect.inputs_eq : t.inputs = s.inputs := by cases h <;> rfl

end

/-- Settles O41: an effect changes an item only for a writer of it, and a byte of the record is kept by every command
that does not write that byte. -/
theorem eachRegisterHasOnlyItsWriters : Obligations.EachRegisterHasOnlyItsWriters := by
  unfold Obligations.EachRegisterHasOnlyItsWriters
  intro i s t h
  have heff := effect_of_exec h
  exact ⟨heff.seCfg_eq, heff.seEma_eq, fun hi => csRec_of_exec hi h, fun a hi => read_of_exec hi (congrArg nextOf h),
    heff.saCfg_eq, heff.faFrame_eq, heff.params_eq, heff.inputs_eq⟩

/-! ### The commands that write no state -/

/-- The command writes no item of state ("State written: none" in its rule). -/
def WritesNothing (i : Instr) : Prop :=
  (∀ wl pe av vi, i ≠ .seCfg wl pe av vi) ∧ writesEma i = false ∧ writesRecord i = false ∧ (∀ ap, i ≠ .saCfg ap) ∧
  ∀ xA vA uA xB vB uB, i ≠ .faStep xA vA uA xB vB uB

theorem writesNothing_of_readsRecord {i : Instr} (hi : readsRecord i = true) : WritesNothing i := by
  cases i with
  | csRdb | csCrc | csVal | csGetPro | csGetPcm | csGetEmph | csGetLock | csGetFs | csGetAux | csGetWlen
  | csGetAlign => simp [WritesNothing, writesEma, writesRecord]
  | _ => cases hi

theorem Effect.eq_of_writesNothing {i : Instr} {s t : State} (h : Effect s i t) (hi : WritesNothing i) :
    t = { s with rsp := t.rsp } := by
  obtain ⟨hcfg, hema, hrec, hsa, hfa⟩ := hi
  cases h with
  | answer => rfl
  | configuration wl pe av vi => exact absurd rfl (hcfg wl pe av vi)
  | average _ _ _ hw => cases hema.symm.trans hw
  | record _ _ _ hw => cases hrec.symm.trans hw
  | parity ap => exact absurd rfl (hsa ap)
  | frame xA vA uA xB vB uB => exact absurd rfl (hfa xA vA uA xB vB uB)

/-- Settles O42: none of the listed commands writes an item, so only the response is left to change. -/
theorem pureCommandsChangeOnlyTheResponse : Obligations.PureCommandsChangeOnlyTheResponse := by
  unfold Obligations.PureCommandsChangeOnlyTheResponse
  intro i s t h hi
  have hnone : WritesNothing i := by
    obtain hread | rfl | ⟨x, wl, rfl⟩ | ⟨aw, v, u, c, pre, rfl⟩ | ⟨bits, n, prev, rfl⟩ | ⟨coded, n, rfl⟩ |
      ⟨sf, rfl⟩ := hi
    · exact writesNothing_of_readsRecord hread
    all_goals simp [WritesNothing, writesEma, writesRecord]
  rw [(effect_of_exec h).eq_of_writesNothing hnone]
  exact ⟨rfl, rfl, rfl, rfl, rfl, rfl, fun _ => rfl⟩

/-! ### The invariant -/

theorem Effect.inv {i : Instr} {s t : State} (h : Effect s i t) (hs : s.Inv) : t.Inv := by
  obtain ⟨hrec, hzero, hpe⟩ := hs
  cases h with
  | configuration _ _ _ _ _ _ hnew => exact ⟨hrec, hzero, hnew⟩
  | record _ _ _ _ hm => exact ⟨hm hrec, hzero, hpe⟩
  | answer | average | parity | frame => exact ⟨hrec, hzero, hpe⟩

/-- The reset code of `SE_CFG.PE` is 0, which the parameter holds. -/
theorem resetStep_inv {s : State} (hs : s.Inv) : (resetStep s).Inv := by
  obtain ⟨-, hzero, -⟩ := hs
  exact ⟨Memory.wf_nil, hzero, hzero⟩

/-- Settles O47: taking an input touches no item, a reset restores the invariant, a step without a command changes the
response alone, and a command has one of the effects. -/
theorem everyStepKeepsTheInvariant : Obligations.EveryStepKeepsTheInvariant := by
  unfold Obligations.EveryStepKeepsTheInvariant
  intro s t hs h
  have hadv : s.advanced.Inv := hs
  unfold step at h
  split at h
  · exact Host.Outcome.next.inj h ▸ resetStep_inv hadv
  · exact Host.Outcome.next.inj h ▸ hadv
  · exact raise_eq_next h ▸ hadv
  · exact (effect_of_exec h).inv hadv

/-- Settles O48: the record is empty, and code 0 is the pre-emphasis code and in the default set. -/
theorem resetMeetsTheInvariant : Obligations.ResetMeetsTheInvariant := by
  unfold Obligations.ResetMeetsTheInvariant
  exact ⟨Memory.wf_nil, reset_pe_supported, reset_pe_supported⟩

end Sys2Proof.Proofs
end

section
/-! The ports of a step (`30_encoding.md` R70): what the input asks for, and when there is a response. -/
namespace Sys2Proof.Proofs
open Sys2Proof Sys2Proof.Machine

theorem portAction_eq_idle_iff (p : PortIn) : portAction p = .idle ↔ p.rst = false ∧ p.cmdValid = false := by
  unfold portAction
  split
  · next hrst => simp [hrst]
  · next hrst =>
    split
    · next hvalid => split <;> simp [hvalid]
    · next hvalid => simpa [hvalid] using hrst

theorem portAction_eq_command_iff (p : PortIn) (i : Instr) :
    portAction p = .command i ↔ p.rst = false ∧ p.cmdValid = true ∧ decode p.cmd = some i := by
  unfold portAction
  split
  · next hrst => simp [hrst]
  · next hrst =>
    split
    · next hvalid => split <;> simp_all
    · next hvalid => simp [hvalid]

/-- Every command answers a response, an error or not. -/
theorem rsp_isSome_of_exec {i : Instr} {s t : State} (h : exec i s = .next t) : t.rsp.isSome = true := by
  obtain ⟨t', r, ht', hr, -⟩ := exec_answersByCase i s
  obtain rfl := Host.Outcome.next.inj (ht'.symm.trans h)
  exact Option.isSome_of_mem hr

/-- A step takes one input, keeps the parameter, and responds to a command presented without reset. -/
theorem handshake_of_step {s t : State} (h : step s = .next t) : t.inputs = s.inputs.tail ∧ t.params = s.params ∧
    t.rsp.isSome = (s.portIn.cmdValid && !s.portIn.rst) := by
  cases hact : portAction s.portIn with
  | reset =>
    have hrst := (portAction_eq_reset_iff _).1 hact
    obtain rfl := Host.Outcome.next.inj ((step_of_reset hrst).symm.trans h)
    exact ⟨rfl, rfl, by simp [hrst]⟩
  | idle =>
    obtain ⟨-, hvalid⟩ := (portAction_eq_idle_iff _).1 hact
    rw [step, hact] at h
    obtain rfl := Host.Outcome.next.inj h
    exact ⟨rfl, rfl, by simp [hvalid]⟩
  | illegal =>
    obtain ⟨hrst, hvalid, -⟩ := (portAction_eq_illegal_iff _).1 hact
    rw [step, hact] at h
    obtain rfl := raise_eq_next h
    exact ⟨rfl, rfl, by simp [hrst, hvalid]⟩
  | command i =>
    obtain ⟨hrst, hvalid, -⟩ := (portAction_eq_command_iff _ i).1 hact
    rw [step, hact] at h
    have heff := effect_of_exec h
    exact ⟨heff.inputs_eq, heff.params_eq, by rw [rsp_isSome_of_exec h, hrst, hvalid]; rfl⟩

/-- Settles O52: the step's four actions, of which idling is the one with nothing presented. -/
theorem oneStepHandshake : Obligations.OneStepHandshake := by
  unfold Obligations.OneStepHandshake
  intro s
  obtain ⟨t, h⟩ := step_next s
  obtain ⟨hinputs, hparams, hrsp⟩ := handshake_of_step h
  refine ⟨t, h, hinputs, hparams, hrsp, fun hvalid hrst => ?_⟩
  rw [step, (portAction_eq_idle_iff _).2 ⟨hrst, hvalid⟩] at h
  exact (Host.Outcome.next.inj h).symm

/-- Settles O53: the head of the queue is the input of the step, and it asks for the decoded command. -/
theorem stepRunsTheDecodedCommand : Obligations.StepRunsTheDecodedCommand := by
  unfold Obligations.StepRunsTheDecodedCommand
  intro p rest s i hin hrst hvalid hdecode
  have hport : s.portIn = p := by rw [State.portIn, hin]; rfl
  rw [step, hport, (portAction_eq_command_iff p i).2 ⟨hrst, hvalid, hdecode⟩, State.advanced, hin]
  rfl

/-- Settles O44: the response is an output, which no meaning takes in. -/
theorem noCommandReadsTheResponse : Obligations.NoCommandReadsTheResponse := by
  unfold Obligations.NoCommandReadsTheResponse
  exact exec_with_rsp

end Sys2Proof.Proofs
end

section
/-! The monitoring average (`10_state.md` R14): what resets and returns it (`40_sample_encoder.md` R89, R90), and that
no other command reads it. -/
namespace Sys2Proof.Proofs
open Sys2Proof Sys2Proof.Machine

/-! ### `SE.EMARST` and `SE.EMARD` -/

theorem exec_seEmarst (s : State) : exec .seEmarst s = .next (({ s with seEma := 0 } : State).withRsp .ok 0 0 0) := rfl

theorem exec_seEmard (s : State) : exec .seEmard s = .next (s.withRsp .ok (BitVec.ofNat 64 s.seEma.toNat) 0 0) := by
  rw [← zext64_eq_ofNat]
  rfl

/-- Settles O9: the average that `SE.EMARD` returns after `SE.EMARST` is the 0 just written. -/
theorem emaIsResetAndRead : Obligations.EmaIsResetAndRead := by
  unfold Obligations.EmaIsResetAndRead
  refine ⟨fun _ => decode_of_opcodeByte .seEmarst, fun _ => decode_of_opcodeByte .seEmard,
    fun s => ⟨exec_seEmarst s, exec_seEmard s, fun t h => ?_⟩⟩
  obtain rfl := Host.Outcome.next.inj ((exec_seEmarst s).symm.trans h)
  exact exec_seEmard _

/-! ### Commands that do not read the average -/

/-- The state with another average. -/
def withEma (e : BitVec 32) (s : State) : State := { s with seEma := e }

/-- The meaning answers alike whatever the average is: the next states are equal once their averages are. -/
def IgnoresEma (e : State → Host.Outcome State Fault Refusal) : Prop :=
  ∀ x y s, mapNext (withEma y) (e (withEma x s)) = mapNext (withEma y) (e s)

theorem AnswersFromRecord.ignoresEma {e : State → Host.Outcome State Fault Refusal} (he : AnswersFromRecord e) :
    IgnoresEma e := by
  obtain ⟨f, hf⟩ := he
  intro x y s
  rw [hf, hf]
  rfl

/-- A meaning that chooses between two by its operands alone. -/
theorem ignoresEma_ite {c : Prop} [Decidable c] {e e' : State → Host.Outcome State Fault Refusal} (h : IgnoresEma e)
    (h' : IgnoresEma e') : IgnoresEma fun s => if c then e s else e' s := by
  by_cases hc : c
  · simpa only [if_pos hc] using h
  · simpa only [if_neg hc] using h'

theorem execSeCfg_ignoresEma (wl : BitVec 5) (pe : BitVec 3) (av vi : Bool) : IgnoresEma (execSeCfg wl pe av vi) := by
  intro x y s
  unfold execSeCfg
  split
  · rfl
  · rw [show (withEma x s).params = s.params from rfl]
    split <;> rfl

theorem execSeVrange_ignoresEma (x : Sample) (wl : BitVec 5) : IgnoresEma (execSeVrange x wl) := by
  intro _ _ s
  unfold execSeVrange
  split
  · rfl
  · split <;> rfl

/-- An encode reads the average only to make the next one. -/
theorem execSeEnc_ignoresEma (x : Sample) (v : Bool) : IgnoresEma (execSeEnc x v) := by
  intro e y s
  rw [execSeEnc, execSeEnc, show (withEma e s).seCfg = s.seCfg from rfl]
  cases seEncode s.seCfg x v with
  | none => rfl
  | some _ => rfl

theorem execFaStep_ignoresEma (xA : Sample) (vA uA : Bool) (xB : Sample) (vB uB : Bool) :
    IgnoresEma (execFaStep xA vA uA xB vB uB) := by
  intro e y s
  rw [execFaStep, execFaStep, show (withEma e s).seCfg = s.seCfg from rfl]
  cases seEncode s.seCfg xA vA with
  | none => rfl
  | some eA =>
    cases seEncode s.seCfg xB vB with
    | none => rfl
    | some eB => rfl

theorem exec_ignoresEma {i : Instr} (hi : i ≠ .seEmard) : IgnoresEma (exec i) := by
  cases i with
  | seEmard => exact absurd rfl hi
  | seCfg wl pe av vi => exact execSeCfg_ignoresEma wl pe av vi
  | seEnc x v => exact execSeEnc_ignoresEma x v
  | seVrange x wl => exact execSeVrange_ignoresEma x wl
  | faStep xA vA uA xB vB uB => exact execFaStep_ignoresEma xA vA uA xB vB uB
  | csWrb | csSetPro | csSetPcm | csSetEmph | csSetLock | csSetFs | csSetAux | csSetWlen | csSetAlign | bmcEnc
  | bmcDec => exact ignoresEma_ite (fun _ _ _ => rfl) (fun _ _ _ => rfl)
  | csRdb | csCrc | csVal | csGetPro | csGetPcm | csGetEmph | csGetLock | csGetFs | csGetAux | csGetWlen
  | csGetAlign => exact (exec_answersFromRecord rfl).ignoresEma
  | seEnc16 | seEnc24p | seEmarst | csClr | saCfg | saBuild | sfLine => exact fun _ _ _ => rfl

/-- Settles O46: a command that ignores the average goes on to the same state but for it, and `SE.EMARD` changes the
response alone. -/
theorem theAverageIsReadOnlyByEmard : Obligations.TheAverageIsReadOnlyByEmard := by
  unfold Obligations.TheAverageIsReadOnlyByEmard
  intro i s t e h
  by_cases hi : i = .seEmard
  · subst hi
    obtain rfl := Host.Outcome.next.inj ((exec_seEmard s).symm.trans h)
    exact ⟨_, exec_seEmard (withEma e s), absurd rfl, rfl⟩
  · obtain ⟨t', h'⟩ := exec_next i (withEma e s)
    have hmap := exec_ignoresEma hi e t.seEma s
    rw [h, h'] at hmap
    have heq : withEma t.seEma t' = t := Host.Outcome.next.inj hmap
    have hrsp : t'.rsp = t.rsp := congrArg State.rsp (a₁ := withEma t.seEma t') heq
    refine ⟨t', h', fun _ => hrsp, ?_⟩
    rw [← hrsp]
    exact heq

end Sys2Proof.Proofs
end

section
/-! `CS.CLR` (`41_channel_status.md` R109). -/
namespace Sys2Proof.Proofs
open Sys2Proof Sys2Proof.Machine

theorem exec_csClr (s : State) :
    exec .csClr s = .next (({ s with csRec := Memory.zeroed } : State).withRsp .ok 0 0 0) := rfl

/-- Settles O13: the new record is the empty memory, the record of reset, whose CRC does not match its byte 23. -/
theorem csClrZeroesTheRecord : Obligations.CsClrZeroesTheRecord := by
  unfold Obligations.CsClrZeroesTheRecord
  refine ⟨fun _ => decode_of_opcodeByte .csClr, fun s =>
    ⟨Memory.zeroed, exec_csClr s, Memory.wf_zeroed, Memory.read_zeroed, fun t h => ?_⟩⟩
  obtain rfl := Host.Outcome.next.inj ((exec_csClr s).symm.trans h)
  exact exec_csVal_of_ne crc8_reset_ne_read

end Sys2Proof.Proofs
end

section
/-! Encoding in two parts (`95_test_vectors.md` section 2.4, `70_reset_and_hazards.md` section 3). -/
namespace Sys2Proof.Proofs
open Sys2Proof Sys2Proof.Machine

/-- A list packed in two parts, the second above the first. -/
theorem packBits_append (w : Nat) (bs cs : List Bool) :
    packBits w (bs ++ cs) = packBits w bs ||| packBits w cs <<< bs.length := by
  apply BitVec.eq_of_getLsbD_eq
  intro i hi
  rw [BitVec.getLsbD_or, BitVec.getLsbD_shiftLeft, packBits_getLsbD, packBits_getLsbD, packBits_getLsbD,
    decide_eq_true hi]
  by_cases hlow : i < bs.length
  · simp [hlow, List.getElem?_append_left hlow]
  · have hle : bs.length ≤ i := Nat.not_lt.1 hlow
    have hlt : i - bs.length < w := by omega
    simp [hlow, hlt, List.getElem?_append_right hle]

/-- Bits `n` to `n + m` of a word are the low bits of the word shifted. -/
theorem take_drop_bitList {w : Nat} (x : BitVec w) {n m : Nat} (h : n + m ≤ w) :
    ((bitList x).drop n).take m = (bitList (x >>> n)).take m := by
  apply List.ext_getElem?
  intro i
  rw [List.getElem?_take, List.getElem?_take]
  split
  · next hi =>
    have hlow : i < w := by omega
    have hhigh : n + i < w := by omega
    rw [List.getElem?_drop, bitList_getElem?, bitList_getElem?, if_pos hlow, if_pos hhigh, BitVec.getLsbD_ushiftRight]
  · rfl

/-- Settles O32: the bits split into those of the two commands, and the second sequence follows the level the first left
on the line. -/
theorem chainedEncodesEqualOne : Obligations.ChainedEncodesEqualOne := by
  unfold Obligations.ChainedEncodesEqualOne
  intro bits n m prev h first second
  have hsplit : (bitList bits).take (n + m) = (bitList bits).take n ++ (bitList (bits >>> n)).take m := by
    rw [List.take_add, take_drop_bitList bits h]
  have hlen : (bmcIntervals prev ((bitList bits).take n)).length = 2 * n := by simp; omega
  rw [bmcEncode, hsplit, bmcIntervals_append, bmcLast_append, packBits_append, hlen]
  rfl

end Sys2Proof.Proofs
end

section
/-! `FA.STEP` as the pipeline run once per channel (`44_frame_block.md` section 2). -/
namespace Sys2Proof.Proofs
open Sys2Proof Sys2Proof.Machine

/-- R85: the audio word is cut out of the result word of an encode. -/
theorem encodedWord_extractLsb' (v : Bool) (aw : AudioWord) : (encodedWord v aw).extractLsb' 0 24 = aw := by
  have haudio : (zext64 aw).extractLsb' 0 24 = aw := extractLsb'_extended aw (by decide)
  have hflag : (bitWord 64 v <<< 24).extractLsb' 0 24 = 0#24 :=
    extractLsb'_placed_of_outside (BitVec.ofBool v) (.inl le_rfl)
  rw [encodedWord, BitVec.extractLsb'_or, haudio, hflag, BitVec.or_zero]

/-- What `SE.ENC` answers: refused, or the encoded sample, with the average moved on. -/
theorem execSeEnc_cases {x : Sample} {v : Bool} {s t : State} {r : Response} (h : execSeEnc x v s = .next t)
    (hr : t.rsp = some r) :
    (seEncode s.seCfg x v = none ∧ r.st ≠ .ok) ∨
    ∃ e, seEncode s.seCfg x v = some e ∧ r = ⟨.ok, encodedWord e.v e.aw, zext64 e.aux, 0⟩ ∧
      t = { s.emaUpdated x.toInt with rsp := some r } := by
  unfold execSeEnc at h
  split at h
  · next henc =>
    obtain rfl := raise_eq_next h
    obtain rfl := Option.some.inj hr
    exact .inl ⟨henc, by simp⟩
  · next e henc =>
    obtain rfl := respond_eq_next h
    obtain rfl := Option.some.inj hr
    exact .inr ⟨e, henc, rfl, rfl⟩

theorem st_ne_ok_of_raise {s t : State} {e : Status} {info : BitVec 16} {r : Response} (he : e ≠ .ok)
    (h : raise s e info = .next t) (hr : t.rsp = some r) : r.st ≠ .ok := by
  obtain rfl := raise_eq_next h
  obtain rfl := Option.some.inj hr
  exact he

/-- Settles O34: the second `SE.ENC` works under the configuration the first left alone, so `FA.STEP` and the two refuse
together; otherwise the subframes are assembled from the two encoded samples. -/
theorem faStepIsThePipelinePerChannel : Obligations.FaStepIsThePipelinePerChannel := by
  unfold Obligations.FaStepIsThePipelinePerChannel
  intro xA vA uA xB vB uB s t a b r rA rB h hr hA hrA hB hrB
  obtain ⟨hnoA, hstA⟩ | ⟨eA, hencA, rfl, rfl⟩ := execSeEnc_cases hA hrA
  · have hst := st_ne_ok_of_raise (by decide) ((execFaStep_of_refused_a hnoA).symm.trans h) hr
    exact ⟨iff_of_false hst fun hok => hstA hok.1, fun hok => absurd hok hst⟩
  · obtain ⟨hnoB, hstB⟩ | ⟨eB, hencB, rfl, rfl⟩ := execSeEnc_cases hB hrB
    · have hst := st_ne_ok_of_raise (by decide) ((execFaStep_of_refused_b hencA hnoB).symm.trans h) hr
      exact ⟨iff_of_false hst fun hok => hstB hok.2, fun hok => absurd hok hst⟩
    · obtain rfl := respond_eq_next ((execFaStep_of_encoded hencA hencB).symm.trans h)
      obtain rfl := Option.some.inj hr
      refine ⟨iff_of_true rfl ⟨rfl, rfl⟩, fun _ => ⟨rfl, ?_, ?_⟩⟩
      · rw [encodedWord_extractLsb', encodedWord_getLsbD_24, exec_saBuild]
        rfl
      · rw [encodedWord_extractLsb', encodedWord_getLsbD_24, exec_saBuild]
        rfl

end Sys2Proof.Proofs
end

section
/-! Several machines side by side (`60_exceptions.md` R215). -/
namespace Sys2Proof.Proofs
open Sys2Proof Sys2Proof.Machine

/-- The state a step goes on to. -/
def stepped (s : State) : State := (nextOf (step s)).getD s

theorem step_eq_stepped (s : State) : step s = .next (stepped s) := by
  obtain ⟨t, h⟩ := step_next s
  rw [stepped, h]
  rfl

/-- A step at a place changes that place of the system alone; a place that does not exist changes nothing. -/
theorem stepAt_eq_modify (sys : List State) (k : Nat) : stepAt sys k = .next (sys.modify k stepped) := by
  induction sys generalizing k with
  | nil => rw [stepAt, List.modify_nil]
  | cons s sys ih =>
    cases k with
    | zero => rw [stepAt, step_eq_stepped, List.modify_zero_cons]
    | succ k => rw [stepAt, ih, List.modify_succ_cons]

/-- Settles O54: a step modifies one place of a list, and modifications of two places commute. -/
theorem instancesDoNotAffectEachOther : Obligations.InstancesDoNotAffectEachOther := by
  unfold Obligations.InstancesDoNotAffectEachOther
  refine ⟨fun sys sys' k h => ?_, fun sys a b j k hjk ha hb => ?_⟩
  · obtain rfl := Host.Outcome.next.inj ((stepAt_eq_modify sys k).symm.trans h)
    refine ⟨fun j hj => ?_, fun s hs => ⟨stepped s, step_eq_stepped s, ?_⟩⟩
    · simp [hj.symm]
    · simp [hs]
  · obtain rfl := Host.Outcome.next.inj ((stepAt_eq_modify sys j).symm.trans ha)
    rw [stepAt_eq_modify, List.modify_modify_ne _ _ _ hjk] at hb
    exact ⟨_, stepAt_eq_modify sys k, by rw [stepAt_eq_modify, hb]⟩

end Sys2Proof.Proofs
end
